-- ==== Sys2Proof/Word.lean ====
section
/-! DEFINITION. The widths of the byte codec block: a byte, a 16-bit word, and the two byte orders. -/

namespace Sys2Proof

/-- A byte is 8 bits (R8). -/
abbrev Byte := BitVec 8

/-- A 16-bit operation word (R70), or a 16-bit register. -/
abbrev Word := BitVec 16

/-- The two byte orders (R12): with `le` the byte at the lower offset is the low byte, with `be` the high byte. -/
inductive ByteOrder where
  | le
  | be
deriving DecidableEq, Repr

end Sys2Proof
end

