-- ==== Sys2Proof/Config.lean ====
section
/-! DEFINITION. What is fixed before reset (R6, R232): the names of the packet's fields, the rows of a field table, and
the parameters the block takes. The default values stand in Machine/Params.lean. -/

namespace Sys2Proof

/-- A free value: the count the tracker takes where a 16-bit pattern, the second argument, is no number of CNT_W bits, the
first (log entry 4). Nothing constrains it. It can only matter where CNT_W is below 16. -/
opaque Config.freeCount : Nat → Nat → Nat

/-- The defined-unused bytes of a packet (R144): no field covers them (R133). -/
def Config.unusedBytes : List Nat := [9, 36, 37, 38]

/-- The document's sub-groups of SensorState (R30). -/
inductive FieldGroup where
  | bumpAndWheeldrop
  | wall
  | cliff
  | wheelOvercurrent
  | dirtDetect
  | infraredOpcodes
  | buttons
  | travel
  | battery
  | chargingSourceAvailability
  | oiMode
  | song
  | streamPacketCount
  | requestedVelocityAndRadius
  | encoderCounts
  | lightBumper
  | motorCurrent
  | stasis
deriving DecidableEq, Repr

/-- The fields of the SensorState record: those of R140, named as it names them with `_` for the dot, and any further ones
that a FIELD_TABLE has (log entry 9). -/
inductive FieldName where
  | bumpAndWheeldrop_bumpRight
  | bumpAndWheeldrop_bumpLeft
  | bumpAndWheeldrop_wheeldropRight
  | bumpAndWheeldrop_wheeldropLeft
  | wall_wall
  | cliff_left
  | cliff_frontLeft
  | cliff_frontRight
  | cliff_right
  | wall_virtualWall
  | wheelOvercurrent_sideBrush
  | wheelOvercurrent_mainBrush
  | wheelOvercurrent_rightWheel
  | wheelOvercurrent_leftWheel
  | dirtDetect
  | infraredOpcodes_omni
  | buttons_clean
  | buttons_spot
  | buttons_dock
  | buttons_minute
  | buttons_hour
  | buttons_day
  | buttons_schedule
  | buttons_clock
  | travel_distance
  | travel_angle
  | battery_chargingState
  | battery_voltage
  | battery_current
  | battery_temperature
  | battery_charge
  | battery_capacity
  | wall_signal
  | cliff_leftSignal
  | cliff_frontLeftSignal
  | cliff_frontRightSignal
  | cliff_rightSignal
  | chargingSourceAvailability
  | oiMode
  | song_number
  | song_playing
  | streamPacketCount
  | requestedVelocityAndRadius_velocity
  | requestedVelocityAndRadius_radius
  | requestedVelocityAndRadius_rightVelocity
  | requestedVelocityAndRadius_leftVelocity
  | encoderCounts_left
  | encoderCounts_right
  | lightBumper_left
  | lightBumper_frontLeft
  | lightBumper_centerLeft
  | lightBumper_centerRight
  | lightBumper_frontRight
  | lightBumper_right
  | lightBumper_leftSignal
  | lightBumper_frontLeftSignal
  | lightBumper_centerLeftSignal
  | lightBumper_centerRightSignal
  | lightBumper_frontRightSignal
  | lightBumper_rightSignal
  | infraredOpcodes_left
  | infraredOpcodes_right
  | motorCurrent_left
  | motorCurrent_right
  | motorCurrent_mainBrush
  | motorCurrent_sideBrush
  | stasis
  /-- A field with a name that R140 does not use. The spec fixes no such name, so a number stands for it. -/
  | other (id : Nat)
deriving DecidableEq, Repr

/-- The document's sub-group of each field of R140 (R30). -/
def FieldName.group : FieldName → Option FieldGroup
  | .bumpAndWheeldrop_bumpRight => some .bumpAndWheeldrop
  | .bumpAndWheeldrop_bumpLeft => some .bumpAndWheeldrop
  | .bumpAndWheeldrop_wheeldropRight => some .bumpAndWheeldrop
  | .bumpAndWheeldrop_wheeldropLeft => some .bumpAndWheeldrop
  | .wall_wall => some .wall
  | .cliff_left => some .cliff
  | .cliff_frontLeft => some .cliff
  | .cliff_frontRight => some .cliff
  | .cliff_right => some .cliff
  | .wall_virtualWall => some .wall
  | .wheelOvercurrent_sideBrush => some .wheelOvercurrent
  | .wheelOvercurrent_mainBrush => some .wheelOvercurrent
  | .wheelOvercurrent_rightWheel => some .wheelOvercurrent
  | .wheelOvercurrent_leftWheel => some .wheelOvercurrent
  | .dirtDetect => some .dirtDetect
  | .infraredOpcodes_omni => some .infraredOpcodes
  | .buttons_clean => some .buttons
  | .buttons_spot => some .buttons
  | .buttons_dock => some .buttons
  | .buttons_minute => some .buttons
  | .buttons_hour => some .buttons
  | .buttons_day => some .buttons
  | .buttons_schedule => some .buttons
  | .buttons_clock => some .buttons
  | .travel_distance => some .travel
  | .travel_angle => some .travel
  | .battery_chargingState => some .battery
  | .battery_voltage => some .battery
  | .battery_current => some .battery
  | .battery_temperature => some .battery
  | .battery_charge => some .battery
  | .battery_capacity => some .battery
  | .wall_signal => some .wall
  | .cliff_leftSignal => some .cliff
  | .cliff_frontLeftSignal => some .cliff
  | .cliff_frontRightSignal => some .cliff
  | .cliff_rightSignal => some .cliff
  | .chargingSourceAvailability => some .chargingSourceAvailability
  | .oiMode => some .oiMode
  | .song_number => some .song
  | .song_playing => some .song
  | .streamPacketCount => some .streamPacketCount
  | .requestedVelocityAndRadius_velocity => some .requestedVelocityAndRadius
  | .requestedVelocityAndRadius_radius => some .requestedVelocityAndRadius
  | .requestedVelocityAndRadius_rightVelocity => some .requestedVelocityAndRadius
  | .requestedVelocityAndRadius_leftVelocity => some .requestedVelocityAndRadius
  | .encoderCounts_left => some .encoderCounts
  | .encoderCounts_right => some .encoderCounts
  | .lightBumper_left => some .lightBumper
  | .lightBumper_frontLeft => some .lightBumper
  | .lightBumper_centerLeft => some .lightBumper
  | .lightBumper_centerRight => some .lightBumper
  | .lightBumper_frontRight => some .lightBumper
  | .lightBumper_right => some .lightBumper
  | .lightBumper_leftSignal => some .lightBumper
  | .lightBumper_frontLeftSignal => some .lightBumper
  | .lightBumper_centerLeftSignal => some .lightBumper
  | .lightBumper_centerRightSignal => some .lightBumper
  | .lightBumper_frontRightSignal => some .lightBumper
  | .lightBumper_rightSignal => some .lightBumper
  | .infraredOpcodes_left => some .infraredOpcodes
  | .infraredOpcodes_right => some .infraredOpcodes
  | .motorCurrent_left => some .motorCurrent
  | .motorCurrent_right => some .motorCurrent
  | .motorCurrent_mainBrush => some .motorCurrent
  | .motorCurrent_sideBrush => some .motorCurrent
  | .stasis => some .stasis
  | .other _ => none

/-- The row kinds of R140. -/
inductive FieldKind where
  /-- One bit of one byte. -/
  | flag (bit : Fin 8)
  /-- An unsigned byte. -/
  | u8
  /-- A signed byte. -/
  | i8
  /-- An unsigned 16-bit field in PKT_ORD order. -/
  | u16
  /-- A signed 16-bit field in PKT_ORD order. -/
  | i16
deriving DecidableEq, Repr

/-- How many bytes a row of this kind covers (R63, R140). -/
def FieldKind.width : FieldKind → Nat
  | .flag _ => 1
  | .u8 => 1
  | .i8 => 1
  | .u16 => 2
  | .i16 => 2

/-- One row of FIELD_TABLE (R140). -/
structure FieldRow where
  name : FieldName
  off : Nat
  kind : FieldKind
deriving DecidableEq, Repr

/-- The parameters the model takes (R6). -/
structure Params where
  /-- PKT_LEN: exact length of a sensor packet, bytes. -/
  pktLen : Nat
  /-- BUF_CAP: capacity of the input byte buffer, bytes. -/
  bufCap : Nat
  /-- WRAP_THRESH: threshold on the magnitude of a counter's step. -/
  wrapThresh : Nat
  /-- WRAP_K: the wrap constant of the corrected delta. -/
  wrapK : Nat
  /-- CNT_W: width of each raw encoder counter, bits. -/
  cntW : Nat
  /-- RES_W: width of RES, DL and DR, bits. -/
  resW : Nat
  /-- PKT_ORD: byte order of every 16-bit packet field. -/
  pktOrd : ByteOrder
  /-- FIELD_TABLE: offset, width, signedness and bit of every packet field. -/
  fieldTable : List FieldRow
deriving DecidableEq, Repr

end Sys2Proof
end

