-- ==== Sys2Proof/Machine/Params.lean ====
section
/-! DEFINITION. The default parameters (R6, R140) and the constraints every choice of them must meet (R7, R133). -/

namespace Sys2Proof.Machine

/-- Rows 1 to 24 of the default FIELD_TABLE (R140). -/
def fieldRowsA : List FieldRow := [
  ⟨.bumpAndWheeldrop_bumpRight, 0, .flag 0⟩,
  ⟨.bumpAndWheeldrop_bumpLeft, 0, .flag 1⟩,
  ⟨.bumpAndWheeldrop_wheeldropRight, 0, .flag 2⟩,
  ⟨.bumpAndWheeldrop_wheeldropLeft, 0, .flag 3⟩,
  ⟨.wall_wall, 1, .u8⟩,
  ⟨.cliff_left, 2, .u8⟩,
  ⟨.cliff_frontLeft, 3, .u8⟩,
  ⟨.cliff_frontRight, 4, .u8⟩,
  ⟨.cliff_right, 5, .u8⟩,
  ⟨.wall_virtualWall, 6, .u8⟩,
  ⟨.wheelOvercurrent_sideBrush, 7, .flag 0⟩,
  ⟨.wheelOvercurrent_mainBrush, 7, .flag 2⟩,
  ⟨.wheelOvercurrent_rightWheel, 7, .flag 3⟩,
  ⟨.wheelOvercurrent_leftWheel, 7, .flag 4⟩,
  ⟨.dirtDetect, 8, .u8⟩,
  ⟨.infraredOpcodes_omni, 10, .u8⟩,
  ⟨.buttons_clean, 11, .flag 0⟩,
  ⟨.buttons_spot, 11, .flag 1⟩,
  ⟨.buttons_dock, 11, .flag 2⟩,
  ⟨.buttons_minute, 11, .flag 3⟩,
  ⟨.buttons_hour, 11, .flag 4⟩,
  ⟨.buttons_day, 11, .flag 5⟩,
  ⟨.buttons_schedule, 11, .flag 6⟩,
  ⟨.buttons_clock, 11, .flag 7⟩]

/-- Rows 25 to 48 of the default FIELD_TABLE (R140). -/
def fieldRowsB : List FieldRow := [
  ⟨.travel_distance, 12, .i16⟩,
  ⟨.travel_angle, 14, .i16⟩,
  ⟨.battery_chargingState, 16, .u8⟩,
  ⟨.battery_voltage, 17, .u16⟩,
  ⟨.battery_current, 19, .i16⟩,
  ⟨.battery_temperature, 21, .i8⟩,
  ⟨.battery_charge, 22, .u16⟩,
  ⟨.battery_capacity, 24, .u16⟩,
  ⟨.wall_signal, 26, .u16⟩,
  ⟨.cliff_leftSignal, 28, .u16⟩,
  ⟨.cliff_frontLeftSignal, 30, .u16⟩,
  ⟨.cliff_frontRightSignal, 32, .u16⟩,
  ⟨.cliff_rightSignal, 34, .u16⟩,
  ⟨.chargingSourceAvailability, 39, .u8⟩,
  ⟨.oiMode, 40, .u8⟩,
  ⟨.song_number, 41, .u8⟩,
  ⟨.song_playing, 42, .u8⟩,
  ⟨.streamPacketCount, 43, .u8⟩,
  ⟨.requestedVelocityAndRadius_velocity, 44, .i16⟩,
  ⟨.requestedVelocityAndRadius_radius, 46, .i16⟩,
  ⟨.requestedVelocityAndRadius_rightVelocity, 48, .i16⟩,
  ⟨.requestedVelocityAndRadius_leftVelocity, 50, .i16⟩,
  ⟨.encoderCounts_left, 52, .u16⟩,
  ⟨.encoderCounts_right, 54, .u16⟩]

/-- Rows 49 to 67 of the default FIELD_TABLE (R140). -/
def fieldRowsC : List FieldRow := [
  ⟨.lightBumper_left, 56, .flag 0⟩,
  ⟨.lightBumper_frontLeft, 56, .flag 1⟩,
  ⟨.lightBumper_centerLeft, 56, .flag 2⟩,
  ⟨.lightBumper_centerRight, 56, .flag 3⟩,
  ⟨.lightBumper_frontRight, 56, .flag 4⟩,
  ⟨.lightBumper_right, 56, .flag 5⟩,
  ⟨.lightBumper_leftSignal, 57, .u16⟩,
  ⟨.lightBumper_frontLeftSignal, 59, .u16⟩,
  ⟨.lightBumper_centerLeftSignal, 61, .u16⟩,
  ⟨.lightBumper_centerRightSignal, 63, .u16⟩,
  ⟨.lightBumper_frontRightSignal, 65, .u16⟩,
  ⟨.lightBumper_rightSignal, 67, .u16⟩,
  ⟨.infraredOpcodes_left, 69, .u8⟩,
  ⟨.infraredOpcodes_right, 70, .u8⟩,
  ⟨.motorCurrent_left, 71, .i16⟩,
  ⟨.motorCurrent_right, 73, .i16⟩,
  ⟨.motorCurrent_mainBrush, 75, .i16⟩,
  ⟨.motorCurrent_sideBrush, 77, .i16⟩,
  ⟨.stasis, 79, .u8⟩]

/-- The default FIELD_TABLE of R140, 67 rows (the rows marked G rest on the spec's general knowledge: log entry 6). -/
def defaultFieldTable : List FieldRow := fieldRowsA ++ fieldRowsB ++ fieldRowsC

/-- The default parameters of R6. -/
def defaultParams : Params where
  pktLen := 80
  bufCap := 256
  wrapThresh := 60000
  wrapK := 65535
  cntW := 16
  resW := 32
  pktOrd := .le
  fieldTable := defaultFieldTable

/-- Whether a row covers the byte at offset `x`. -/
def rowCovers (r : FieldRow) (x : Nat) : Bool :=
  decide (r.off ≤ x) && decide (x < r.off + r.kind.width)

/-- Whether two rows have a byte in common. -/
def rowsOverlap (a b : FieldRow) : Bool :=
  decide (a.off < b.off + b.kind.width) && decide (b.off < a.off + a.kind.width)

/-- R133: rows share a byte only if both are flags, each with a different bit. -/
def rowsCompatible (a b : FieldRow) : Bool :=
  match a.kind, b.kind with
  | .flag i, .flag j => !rowsOverlap a b || decide (i ≠ j)
  | _, _ => !rowsOverlap a b

/-- A row compatible with each later row (R133), and with a name of its own, since the record has one field for each
row (R30). -/
def rowFits (a : FieldRow) (rest : List FieldRow) : Bool :=
  rest.all fun b => rowsCompatible a b && decide (a.name ≠ b.name)

/-- Every row fits beside every later one. -/
def rowsFit : List FieldRow → Bool
  | [] => true
  | a :: rest => rowFits a rest && rowsFit rest

/-- The field-table constraints of R133 and R7. DEDUCED (log entry 7): names are distinct, and the two encoder counts are
`u16` rows, because `DECODE` hands them to the tracker as 16-bit counters (R130, R152). -/
def fieldTableOk (p : Params) : Bool :=
  p.fieldTable.all (fun r =>
    decide (r.off + r.kind.width ≤ p.pktLen) && Config.unusedBytes.all fun x => !rowCovers r x)
  && rowsFit p.fieldTable
  && p.fieldTable.any (fun r => decide (r.name = .encoderCounts_left) && decide (r.kind = .u16))
  && p.fieldTable.any (fun r => decide (r.name = .encoderCounts_right) && decide (r.kind = .u16))

/-- The constraints the parameters must meet (R7, R133). R7 gives BUF_CAP no upper bound and neither does the model: DESIGN
CHOICE (log entry 17), since R102 and 92 D4 speak of at most 256 bytes. DEDUCED (log entry 7): RES_W has at least CNT_W + 2
bits, which at CNT_W = 16 is R7's 18, so that every delta fits (R176). -/
def paramsOk (p : Params) : Bool :=
  decide (p.pktLen ≤ p.bufCap)
  && decide (0 < p.wrapThresh) && decide (p.wrapThresh ≤ 2 ^ p.cntW - 1)
  && decide (p.wrapK ≤ 2 ^ p.cntW)
  && decide (18 ≤ p.resW) && decide (p.cntW + 2 ≤ p.resW)
  && fieldTableOk p

end Sys2Proof.Machine
end

