-- ==== Sys2Proof/Machine/State.lean ====
section
/-! DEFINITION. Everything the spec gives the machine (R20), as plain data, with its value after reset (R230); and the
host's side of the interface: the actions it has still to perform and the replies it has received. -/

namespace Sys2Proof.Machine

/-- The input buffer as a canonical list of cells: offsets strictly rising. An unlisted offset holds no content (R51). -/
abbrev Memory := List Host.Cell

/-- The value of one field of a SensorState record, typed by its row's kind (R30, R143). A signed field holds its
two's-complement pattern; `fieldNum` reads it as a number (log entry 9). -/
inductive FieldVal where
  | flag (b : Bool)
  | u8 (v : BitVec 8)
  | i8 (v : BitVec 8)
  | u16 (v : BitVec 16)
  | i16 (v : BitVec 16)
deriving DecidableEq, Repr

/-- A SensorState record: one field for each row of FIELD_TABLE, in the table's order (R30). -/
abbrev Record := List (FieldName × FieldVal)

/-- The causes of a fault (R204): `illegalOp` from any illegal word, `unwrittenArg` from ENC16BE and TRKUPD, `bounds`
from the codec's reads. Taking one leaves a NEXT state with STATUS written, it is not a stop of the model. -/
inductive FaultCause where
  | illegalOp
  | unwrittenArg
  | bounds
deriving DecidableEq, Repr

/-- STATUS.LAST (R40). -/
inductive Last where
  | none
  | ok
  | errMalformed
  | fault
deriving DecidableEq, Repr

/-- The tracker's two states (R33, R180). -/
inductive Phase where
  | uninitialized
  | tracking
deriving DecidableEq, Repr

/-- STATUS by its fields (R40). The reserved bits read 0 and are never written, so nothing stands for them. `fcause` is
`none` for the value 0. The word the host reads is `statusWord`. -/
structure Status where
  last : Last
  fcause : Option FaultCause
  faulted : Bool
  phase : Phase
  sv : Bool
  dv : Bool
  rv : Bool
  ov : Bool
  av0 : Bool
  av1 : Bool
deriving DecidableEq, Repr

/-- The operand registers a host may write (R21). -/
inductive ArgName where
  | arg0
  | arg1
deriving DecidableEq, Repr

/-- The fields of STATUS, by name (R40). -/
inductive StatusField where
  | last
  | fcause
  | faulted
  | phase
  | sv
  | dv
  | rv
  | ov
  | av0
  | av1
deriving DecidableEq, Repr

/-- What a host read may name (R24, R66, R213): every register, every STATUS field, LEN and a byte of BUF
(DEDUCED: log entry 10). -/
inductive ReadName where
  | arg0
  | arg1
  | res
  | out0
  | out1
  | sens
  | prevL
  | prevR
  | dl
  | dr
  | status
  | field (f : StatusField)
  | len
  | buf (off : Nat)
deriving DecidableEq, Repr

/-- The value of a host read: a register's bits read as an unsigned number, or a copy of the whole record (R65). -/
inductive ReadValue where
  | bits (v : Nat)
  | record (r : Record)
deriving DecidableEq, Repr

/-- What the host does to the block (R53, R80, R230): issue an operation word, LOAD, WR, RD, or reset. -/
inductive HostAction where
  | issue (w : Word)
  | load (bytes : List Byte)
  | wr (arg : ArgName) (v : Int)
  | rd (name : ReadName)
  | reset
deriving DecidableEq, Repr

/-- Who performs a host action (R214): the one issuer, or another agent, numbered by the model alone. -/
inductive Agent where
  | issuer
  | other (id : Nat)
deriving DecidableEq, Repr

/-- One action of one host agent. -/
structure HostEvent where
  agent : Agent
  action : HostAction
deriving DecidableEq, Repr

/-- The four outcomes of an operation word, as the host receives them (R200). -/
inductive OpOutcome where
  | ok
  | errMalformed
  | fault (cause : FaultCause)
  | notAccepted
deriving DecidableEq, Repr

/-- What the block returns to the host: the outcome of a word (R200), or the value of a read, `none` for no value (R66). -/
inductive Reply where
  | outcome (o : OpOutcome)
  | value (name : ReadName) (v : Option ReadValue)
deriving DecidableEq, Repr

/-- The state of the block and of its host's side. -/
structure State where
  /-- The parameters, fixed before reset and never changed (R232; log entry 1). -/
  params : Params
  /-- BUF (R51). -/
  buf : Memory
  /-- LEN (R52). -/
  len : Nat
  /-- ARG0 (R21), written if `status.av0`. -/
  arg0 : BitVec 16
  /-- ARG1 (R21), written if `status.av1`. -/
  arg1 : BitVec 16
  /-- RES (R22), a RES_W-bit pattern (log entry 3), written if `status.rv`. -/
  res : Nat
  /-- OUT0 (R23), the byte sent first, written if `status.ov`. -/
  out0 : BitVec 8
  /-- OUT1 (R23), the byte sent second, written if `status.ov`. -/
  out1 : BitVec 8
  /-- SENS (R30), valid if `status.sv`. -/
  sens : Record
  /-- PREVL (R31), a CNT_W-bit number (log entry 4). -/
  prevL : Nat
  /-- PREVR (R31), a CNT_W-bit number (log entry 4). -/
  prevR : Nat
  /-- DL (R32), a RES_W-bit pattern (log entry 3), valid if `status.dv`. -/
  dl : Nat
  /-- DR (R32), a RES_W-bit pattern (log entry 3), valid if `status.dv`. -/
  dr : Nat
  /-- STATUS (R40), PHASE (R33) among its fields. -/
  status : Status
  /-- The host's actions not yet performed, in order (R25; log entry 5). -/
  pending : List HostEvent
  /-- What the block has returned to the host, newest first (R65, R200; log entry 5). -/
  replies : List Reply
deriving DecidableEq, Repr

/-- Why the MODEL stops where the spec gives no step. A fault of the spec is no such stop: see `FaultCause`. -/
inductive Fault where
  /-- Raised by DEC16, DEC16U, DEC8, DEC8U, BITX and DECODE on an offset below LEN that holds no content. Safe: no
  reachable state has one, since LOAD sets LEN and the content together (R51, R53; log entry 8). -/
  | noContent
deriving DecidableEq, Repr

/-- Why the model has no step: host moves the spec says do not exist, and configurations it refuses (log entry 12). -/
inductive Refusal where
  /-- Raised by exec's arm of an instruction that has no meaning yet. Safe. -/
  | notModelled (mnemonic : String)
  /-- Raised by step when an agent other than the issuer does anything but a host read (R215). Safe. -/
  | secondIssuer
  /-- Raised by LOAD of more than BUF_CAP bytes, a move the host does not have (R53). Safe. -/
  | loadTooLong
  /-- Raised by WR of a value outside [-32768, 65535] (R80). Safe. -/
  | argOutOfRange
  /-- Raised by creating a block with parameters that break R7 or R133, and by DECODE on a table without the encoder
  counts, which such parameters alone can hold. Safe. -/
  | badParameters
deriving DecidableEq, Repr

/-- STATUS after reset: 0x0000 (R40, R230). -/
def Status.reset : Status where
  last := .none
  fcause := none
  faulted := false
  phase := .uninitialized
  sv := false
  dv := false
  rv := false
  ov := false
  av0 := false
  av1 := false

/-- The block right after reset, with these parameters (R230). ARG0, ARG1, RES, OUT0, OUT1, SENS, DL and DR hold no value
there: their valid bits are 0, and what stands in them is a DESIGN CHOICE (log entry 2). The host has nothing to do yet. -/
def State.resetWith (p : Params) : State where
  params := p
  buf := []
  len := 0
  arg0 := 0
  arg1 := 0
  res := 0
  out0 := 0
  out1 := 0
  sens := []
  prevL := 0
  prevR := 0
  dl := 0
  dr := 0
  status := Status.reset
  pending := []
  replies := []

/-- The block right after reset, with the default parameters of R6. -/
def State.reset : State := State.resetWith defaultParams

end Sys2Proof.Machine
end

