-- ==== Sys2Proof/Machine/Flags.lean ====
section
/-! DEFINITION. STATUS (R40 to R42): its word, its fields as numbers, and the writes an operation makes to it. -/

namespace Sys2Proof.Machine

/-- A one-bit field as a number. -/
def bitNum (b : Bool) : Nat := if b then 1 else 0

/-- The codes of LAST (R40). -/
def lastNum : Last → Nat
  | .none => 0
  | .ok => 1
  | .errMalformed => 2
  | .fault => 3

/-- The codes of FCAUSE (R40, R204); 4 to 7 are never written. -/
def fcauseNum : Option FaultCause → Nat
  | none => 0
  | some .illegalOp => 1
  | some .unwrittenArg => 2
  | some .bounds => 3

/-- The codes of PHASE (R33). -/
def phaseNum : Phase → Nat
  | .uninitialized => 0
  | .tracking => 1

/-- A field of STATUS as the host reads it (R24, R40). -/
def statusField (st : Status) : StatusField → Nat
  | .last => lastNum st.last
  | .fcause => fcauseNum st.fcause
  | .faulted => bitNum st.faulted
  | .phase => phaseNum st.phase
  | .sv => bitNum st.sv
  | .dv => bitNum st.dv
  | .rv => bitNum st.rv
  | .ov => bitNum st.ov
  | .av0 => bitNum st.av0
  | .av1 => bitNum st.av1

/-- The position of each field's lowest bit in the word (R40). -/
def statusShift : StatusField → Nat
  | .last => 0
  | .fcause => 2
  | .faulted => 5
  | .phase => 6
  | .sv => 7
  | .dv => 8
  | .rv => 9
  | .ov => 10
  | .av0 => 11
  | .av1 => 12

/-- Every field of STATUS. -/
def statusFields : List StatusField :=
  [.last, .fcause, .faulted, .phase, .sv, .dv, .rv, .ov, .av0, .av1]

/-- The STATUS word: each field at its place, the reserved bits 0 (R40). -/
def statusWord (st : Status) : Word :=
  BitVec.ofNat 16 ((statusFields.map fun f => statusField st f * 2 ^ statusShift f).sum)

/-- LAST <- outcome, and no other field (R41). -/
def setLast (l : Last) (st : Status) : Status := { st with last := l }

/-- The STATUS of a fault: FAULTED <- 1, FCAUSE <- reason, LAST <- FAULT (R42, R201). -/
def setFault (c : FaultCause) (st : Status) : Status :=
  { st with faulted := true, fcause := some c, last := .fault }

/-- RV <- 1 (R22). -/
def setRV (st : Status) : Status := { st with rv := true }

/-- OV <- 1 (R23). -/
def setOV (st : Status) : Status := { st with ov := true }

/-- SV <- 1 (R30). -/
def setSV (st : Status) : Status := { st with sv := true }

/-- DV <- 1 and PHASE <- Tracking (R173). -/
def setTracked (st : Status) : Status := { st with dv := true, phase := .tracking }

/-- The written bit of an operand register <- 1 (R21). -/
def setArgWritten : ArgName → Status → Status
  | .arg0, st => { st with av0 := true }
  | .arg1, st => { st with av1 := true }

end Sys2Proof.Machine
end

