-- ==== Sys2Proof/Machine/Operands.lean ====
section
/-! DEFINITION. Numbers and their bit patterns (R9), the bytes and 16-bit values operations read (R51, R57, R61), the bit
test (R106) and the value of a packet field (R141). -/

namespace Sys2Proof.Machine

/-- `sint_N(u)`: an N-bit pattern read as two's complement (R9). -/
def sint (n u : Nat) : Int := if 2 ^ (n - 1) ≤ u then (u : Int) - (2 ^ n : Nat) else u

/-- `uint_N(v)`: `v mod 2^N`, in `[0, 2^N)` (R9). -/
def uint (n : Nat) (v : Int) : Nat := (v % (2 ^ n : Nat)).toNat

/-- `sext_N(v)`: the N-bit two's-complement pattern of `v` (R9). -/
def sext (n : Nat) (v : Int) : Nat := uint n v

/-- `zext_N(u)`: `u` as an N-bit unsigned number (R9). -/
def zext (n u : Nat) : Nat := u % 2 ^ n

/-- The content of the buffer at an offset; an unlisted offset holds none (R51). -/
def Memory.read : Memory → Nat → Option Byte
  | [], _ => none
  | (a, b) :: m, x => if x = a then some b else Memory.read m x

/-- `BufRead(off)`: defined only below LEN (R10, R51). -/
def bufRead (s : State) (off : Nat) : Option Byte :=
  if off < s.len then Memory.read s.buf off else none

/-- Two bytes, the one at the lower offset first, as a 16-bit number in a byte order (R57). -/
def join16 (ord : ByteOrder) (b0 b1 : Byte) : Nat :=
  match ord with
  | .le => b0.toNat + 256 * b1.toNat
  | .be => 256 * b0.toNat + b1.toNat

/-- `Read16(off, ord)` (R57): byte-wise, at any offset (R62). -/
def read16 (s : State) (ord : ByteOrder) (off : Nat) : Option Nat :=
  match bufRead s off, bufRead s (off + 1) with
  | some b0, some b1 => some (join16 ord b0 b1)
  | _, _ => none

/-- `(b AND 2^bit) != 0` (R106). -/
def bitTest (b : Byte) (bit : Nat) : Bool := decide (b &&& BitVec.ofNat 8 (2 ^ bit) ≠ 0)

/-- `Field(row)`: the value of a row of FIELD_TABLE (R141). -/
def fieldValue (s : State) (r : FieldRow) : Option FieldVal :=
  match r.kind with
  | .flag bit => (bufRead s r.off).map fun b => .flag (bitTest b bit)
  | .u8 => (bufRead s r.off).map .u8
  | .i8 => (bufRead s r.off).map .i8
  | .u16 => (read16 s s.params.pktOrd r.off).map fun u => .u16 (BitVec.ofNat 16 u)
  | .i16 => (read16 s s.params.pktOrd r.off).map fun u => .i16 (BitVec.ofNat 16 u)

/-- A field as the number R141 gives: `u8` and `u16` unsigned, `i8` and `i16` by `sint_N`, a flag 0 or 1. -/
def fieldNum : FieldVal → Int
  | .flag b => if b then 1 else 0
  | .u8 v => v.toNat
  | .i8 v => sint 8 v.toNat
  | .u16 v => v.toNat
  | .i16 v => sint 16 v.toNat

/-- The record of all rows of a table, in the table's order (R130). -/
def fieldsOf (s : State) : List FieldRow → Option Record
  | [] => some []
  | r :: rest =>
    match fieldValue s r, fieldsOf s rest with
    | some v, some rec => some ((r.name, v) :: rec)
    | _, _ => none

/-- A field of a record, by name. -/
def recordField : Record → FieldName → Option FieldVal
  | [], _ => none
  | (n, v) :: rec, x => if x = n then some v else recordField rec x

/-- A 16-bit unsigned field of a record, by name: what DECODE hands the tracker (R130, R152). -/
def recordCount (rec : Record) (x : FieldName) : Option (BitVec 16) :=
  match recordField rec x with
  | some (.u16 v) => some v
  | _ => none

end Sys2Proof.Machine
end

