-- ==== Sys2Proof/Machine/Ops.lean ====
section
/-! DEFINITION. The named operations over the state: how an operation ends (R200 to R203), the gate before it (R202),
checked reads (R54), register writes (R22, R23, R30, R173), the buffer (R53) and reset (R230). -/

namespace Sys2Proof.Machine

/-- The outcome of one step of this machine. -/
abbrev Result := Host.Outcome State Fault Refusal

/-- Returns a reply to the host (R200, R66). -/
def reply (r : Reply) (s : State) : State := { s with replies := r :: s.replies }

/-- The end of an accepted operation: its STATUS is written and its outcome returned (R41, R200). -/
def conclude (o : OpOutcome) (st : Status) (s : State) : State :=
  { s with status := st, replies := .outcome o :: s.replies }

/-- An operation's normal end: LAST <- OK and `return Ok` (R41, R200). -/
def returnOk (s : State) : Result := .next (conclude .ok (setLast .ok s.status) s)

/-- `return Err(MalformedPacket)`: only LAST is written (R131, R203). -/
def returnMalformed (s : State) : Result :=
  .next (conclude .errMalformed (setLast .errMalformed s.status) s)

/-- `raise Fault(reason)`, the one way a fault is taken: STATUS is written and nothing else (R201). There is no pc to save,
no vector and no mode to change (R208), and no return but `resetBlock` (R209; log entry 14). -/
def raiseFault (c : FaultCause) (s : State) : Result :=
  .next (conclude (.fault c) (setFault c s.status) s)

/-- The outcome "not accepted": the block writes nothing, not even LAST (R202). -/
def notAccepted (s : State) : Result := .next (reply (.outcome .notAccepted) s)

/-- Reset, the only way out of the faulted state (R209, R230, R233): every piece of the block's state at its reset value.
The parameters stay (R232); the host's actions and replies are its own and stay with it. -/
def resetBlock (s : State) : State :=
  { State.resetWith s.params with pending := s.pending, replies := s.replies }

/-- The first check of every operation: while FAULTED it is not accepted (R202, R206). -/
def whenAccepted (s : State) (k : Result) : Result :=
  if s.status.faulted then notAccepted s else k

/-- The operand check: an unwritten operand register faults (R21, R206). -/
def whenWritten (written : Bool) (s : State) (k : Result) : Result :=
  if written then k else raiseFault .unwrittenArg s

/-- The bounds check of a read of `w` bytes at `off` against LEN (R54, R205). -/
def whenInBounds (off w : Nat) (s : State) (k : Result) : Result :=
  if off + w ≤ s.len then k else raiseFault .bounds s

/-- What was read, or the model's stop for an offset without content. -/
def withContent {α : Type} (x : Option α) (k : α → Result) : Result :=
  match x with
  | some a => k a
  | none => .fault .noContent

/-- RES <- pattern, RV <- 1 (R22). -/
def writeRes (v : Nat) (s : State) : State := { s with res := v, status := setRV s.status }

/-- OUT0 <- first byte, OUT1 <- second byte, OV <- 1 (R23). -/
def writeOut (hi lo : Byte) (s : State) : State :=
  { s with out0 := hi, out1 := lo, status := setOV s.status }

/-- SENS <- a whole new record, SV <- 1 (R30, R150). -/
def writeSens (rec : Record) (s : State) : State := { s with sens := rec, status := setSV s.status }

/-- The tracker's writes (R173): DL, DR and DV, PREVL and PREVR, PHASE. -/
def writeTracker (l r dl dr : Nat) (s : State) : State :=
  { s with prevL := l, prevR := r, dl := dl, dr := dr, status := setTracked s.status }

/-- A host write of an operand register: the register and its written bit (R21). -/
def writeArg (a : ArgName) (v : BitVec 16) (s : State) : State :=
  match a with
  | .arg0 => { s with arg0 := v, status := setArgWritten .arg0 s.status }
  | .arg1 => { s with arg1 := v, status := setArgWritten .arg1 s.status }

/-- Bytes as cells from an offset on. -/
def cellsFrom (base : Nat) : List Byte → Memory
  | [] => []
  | b :: bytes => (base, b) :: cellsFrom (base + 1) bytes

/-- LOAD's writes: the bytes from offset 0 on, LEN, and no earlier content (R53). -/
def writeBuf (bytes : List Byte) (s : State) : State :=
  { s with buf := cellsFrom 0 bytes, len := bytes.length }

/-- Offsets rise strictly from `lo` on. -/
def Memory.risesFrom (lo : Nat) : Memory → Bool
  | [] => true
  | (a, _) :: m => decide (lo ≤ a) && Memory.risesFrom (a + 1) m

/-- The canonical form of a memory: offsets strictly rising. An unlisted offset reads as no content, which no entry can
equal. -/
def Memory.wf (m : Memory) : Bool := Memory.risesFrom 0 m

end Sys2Proof.Machine
end

