-- ==== Sys2Proof/Machine/Codec.lean ====
section
/-! DEFINITION. The Byte Codec operations (R100 to R106). -/

namespace Sys2Proof.Machine

/-- `ENC16BE` (R101). -/
def execEnc16be (s : State) : Result :=
  whenAccepted s <| whenWritten s.status.av0 s <|
    returnOk (writeOut (s.arg0.extractLsb' 8 8) (s.arg0.extractLsb' 0 8) s)

/-- `DEC16` (R102). -/
def execDec16 (ord : ByteOrder) (off : Nat) (s : State) : Result :=
  whenAccepted s <| whenInBounds off 2 s <| withContent (read16 s ord off) fun u =>
    returnOk (writeRes (sext s.params.resW (sint 16 u)) s)

/-- `DEC16U` (R103). -/
def execDec16u (ord : ByteOrder) (off : Nat) (s : State) : Result :=
  whenAccepted s <| whenInBounds off 2 s <| withContent (read16 s ord off) fun u =>
    returnOk (writeRes (zext s.params.resW u) s)

/-- `DEC8` (R104). -/
def execDec8 (off : Nat) (s : State) : Result :=
  whenAccepted s <| whenInBounds off 1 s <| withContent (bufRead s off) fun b =>
    returnOk (writeRes (sext s.params.resW (sint 8 b.toNat)) s)

/-- `DEC8U` (R105). -/
def execDec8u (off : Nat) (s : State) : Result :=
  whenAccepted s <| whenInBounds off 1 s <| withContent (bufRead s off) fun b =>
    returnOk (writeRes (zext s.params.resW b.toNat) s)

/-- `BITX` (R106). -/
def execBitx (off bit : Nat) (s : State) : Result :=
  whenAccepted s <| whenInBounds off 1 s <| withContent (bufRead s off) fun b =>
    returnOk (writeRes (zext s.params.resW (if bitTest b bit then 1 else 0)) s)

end Sys2Proof.Machine
end

