-- ==== Sys2Proof/Machine/Tracker.lean ====
section
/-! DEFINITION. The odometry wraparound tracker (R171 to R181). -/

namespace Sys2Proof.Machine

/-- `Delta(raw, prev)`: the delta of one channel, on integers (R171). The constant is WRAP_K and not the modulus (R177). -/
def delta (p : Params) (raw prev : Int) : Int :=
  if p.wrapThresh ≤ (raw - prev).natAbs then
    if raw > prev then -(p.wrapK : Int) - prev + raw else (p.wrapK : Int) - prev + raw
  else raw - prev

/-- The raw count that the tracker takes from a 16-bit pattern: the number it is (R172), in the range that R171 gives. Where
CNT_W is below 16 and the pattern outside that range, the spec states no count: it is a free one in the range (log entry 4). -/
def countOf (p : Params) (raw : BitVec 16) : Nat :=
  if raw.toNat < 2 ^ p.cntW then raw.toNat else Config.freeCount p.cntW raw.toNat % 2 ^ p.cntW

/-- `TrackerUpdate(l, r)`: both deltas from the old previous values, then all the writes (R173). -/
def trackerUpdate (l r : BitVec 16) (s : State) : State :=
  writeTracker (countOf s.params l) (countOf s.params r)
    (sext s.params.resW (delta s.params (countOf s.params l) s.prevL))
    (sext s.params.resW (delta s.params (countOf s.params r) s.prevR)) s

/-- `TRKUPD` (R172). -/
def execTrkupd (s : State) : Result :=
  whenAccepted s <| whenWritten (s.status.av0 && s.status.av1) s <|
    returnOk (trackerUpdate s.arg0 s.arg1 s)

end Sys2Proof.Machine
end

