-- ==== Sys2Proof/Machine/Packet.lean ====
section
/-! DEFINITION. The sensor packet decoder (R130 to R152). -/

namespace Sys2Proof.Machine

/-- The writes of a DECODE that returns Ok: the whole record, then the tracker update with its two counts (R130, R152). -/
def acceptPacket (rec : Record) (s : State) : Result :=
  match recordCount rec .encoderCounts_left, recordCount rec .encoderCounts_right with
  | some l, some r => returnOk (trackerUpdate l r (writeSens rec s))
  | _, _ => .refused .badParameters

/-- `DECODE` (R130, R131). -/
def execDecode (s : State) : Result :=
  whenAccepted s <|
    if s.len = s.params.pktLen then
      withContent (fieldsOf s s.params.fieldTable) fun rec => acceptPacket rec s
    else returnMalformed s

end Sys2Proof.Machine
end

