-- ==== Sys2Proof/Syntax.lean ====
section
/-! DEFINITION. The eight operations of the block (R74), one constructor per row of spec/opcode_table.json. -/

namespace Sys2Proof

/-- An operation. `off` is the buffer offset OFF, `ord` the byte order ORD, `bit` the bit index BIT (R71, R72). -/
inductive Instr where
  /-- `ENC16BE` (R101): encode ARG0, high byte first. -/
  | enc16be
  /-- `DEC16` (R102): signed 16-bit decode. -/
  | dec16 (ord : ByteOrder) (off : Nat)
  /-- `DEC16U` (R103): unsigned 16-bit decode. -/
  | dec16u (ord : ByteOrder) (off : Nat)
  /-- `DEC8` (R104): signed 8-bit decode. -/
  | dec8 (off : Nat)
  /-- `DEC8U` (R105): unsigned 8-bit decode. -/
  | dec8u (off : Nat)
  /-- `BITX` (R106): bit-flag extraction. -/
  | bitx (off bit : Nat)
  /-- `DECODE` (R130): decode the buffer as one sensor packet. -/
  | decode
  /-- `TRKUPD` (R172): the standalone tracker update. -/
  | trkupd
deriving DecidableEq, Repr

/-- The suffix of a 16-bit decode's mnemonic (R79). -/
def ByteOrder.asm : ByteOrder → String
  | .le => ".LE"
  | .be => ".BE"

/-- The assembler spelling of an operation (R79), its numbers in decimal. -/
def Instr.asm : Instr → String
  | .enc16be => "ENC16BE"
  | .dec16 ord off => "DEC16" ++ ord.asm ++ " " ++ toString off
  | .dec16u ord off => "DEC16U" ++ ord.asm ++ " " ++ toString off
  | .dec8 off => "DEC8 " ++ toString off
  | .dec8u off => "DEC8U " ++ toString off
  | .bitx off bit => "BITX " ++ toString off ++ ", " ++ toString bit
  | .decode => "DECODE"
  | .trkupd => "TRKUPD"

end Sys2Proof
end

