-- ==== Sys2Proof/Machine/Dispatch.lean ====
section
/-! DEFINITION. What each operation does: one arm per constructor of Instr. -/

namespace Sys2Proof.Machine

def exec (i : Instr) (s : State) : Host.Outcome State Fault Refusal :=
  match i with
  | .enc16be => Sys2Proof.Machine.execEnc16be s
  | .dec16 ord off => Sys2Proof.Machine.execDec16 ord off s
  | .dec16u ord off => Sys2Proof.Machine.execDec16u ord off s
  | .dec8 off => Sys2Proof.Machine.execDec8 off s
  | .dec8u off => Sys2Proof.Machine.execDec8u off s
  | .bitx off bit => Sys2Proof.Machine.execBitx off bit s
  | .decode => Sys2Proof.Machine.execDecode s
  | .trkupd => Sys2Proof.Machine.execTrkupd s

end Sys2Proof.Machine
end

