-- ==== Sys2Proof/WellFormed.lean ====
section
/-! DEFINITION. Which operations an operation word can spell: an offset fits OFF, a bit index fits BIT (R71). -/

namespace Sys2Proof

/-- OFF is 8 bits: `0..255` (R71). -/
abbrev offWellFormed (off : Nat) : Bool := decide (off < 256)

/-- BIT is 3 bits: `0..7` (R71). -/
abbrev bitWellFormed (bit : Nat) : Bool := decide (bit < 8)

/-- Every field of the operation fits its place in the word. -/
def Instr.wellFormed : Instr → Bool
  | .enc16be => true
  | .dec16 _ off => offWellFormed off
  | .dec16u _ off => offWellFormed off
  | .dec8 off => offWellFormed off
  | .dec8u off => offWellFormed off
  | .bitx off bit => offWellFormed off && bitWellFormed bit
  | .decode => true
  | .trkupd => true

end Sys2Proof
end

