-- ==== Sys2Proof/Decode.lean ====
section
/-! DEFINITION. The operation word (R70 to R78): its fields, the opcode map, the decoder and the encoder. -/

namespace Sys2Proof

/-- Field OP of a word, bits 15 to 12 (R71). -/
def opField (w : Word) : Nat := (w.extractLsb' 12 4).toNat

/-- Field ORD of a word, bit 11: 0 = LE, 1 = BE (R71, R72). -/
def ordField (w : Word) : ByteOrder := if w.getLsbD 11 then .be else .le

/-- Field BIT of a word, bits 10 to 8 (R71). -/
def bitField (w : Word) : Nat := (w.extractLsb' 8 3).toNat

/-- Field OFF of a word, bits 7 to 0, with no sign extension, scaling or base (R71, R72). -/
def offField (w : Word) : Nat := (w.extractLsb' 0 8).toNat

/-- The rows of the opcode map, by name. -/
inductive Op where
  | enc16be
  | dec16
  | dec16u
  | dec8
  | dec8u
  | bitx
  | decode
  | trkupd
deriving DecidableEq, Repr

/-- A row of the opcode map (R74): a word `w` spells it when `w AND mask = pattern`. -/
structure OpRow where
  op : Op
  pattern : Word
  mask : Word
deriving DecidableEq, Repr

/-- The opcode map (R74). -/
def opTable : List OpRow := [
  ⟨.enc16be, 0x1000, 0xFFFF⟩,
  ⟨.dec16, 0x2000, 0xF700⟩,
  ⟨.dec16u, 0x3000, 0xF700⟩,
  ⟨.dec8, 0x4000, 0xFF00⟩,
  ⟨.dec8u, 0x5000, 0xFF00⟩,
  ⟨.bitx, 0x6000, 0xF800⟩,
  ⟨.decode, 0x7000, 0xFFFF⟩,
  ⟨.trkupd, 0x8000, 0xFFFF⟩]

/-- A word spells a row (R74). -/
def rowMatches (w : Word) (r : OpRow) : Bool := decide (w &&& r.mask = r.pattern)

/-- The operation a word spells, given its row: its operands read from the fields the row uses (R72, R74). -/
def operandsOf (w : Word) : Op → Instr
  | .enc16be => .enc16be
  | .dec16 => .dec16 (ordField w) (offField w)
  | .dec16u => .dec16u (ordField w) (offField w)
  | .dec8 => .dec8 (offField w)
  | .dec8u => .dec8u (offField w)
  | .bitx => .bitx (offField w) (bitField w)
  | .decode => .decode
  | .trkupd => .trkupd

/-- Why a word is illegal (R76, R77). -/
inductive IllegalWord where
  /-- OP is 0x0 or 0x9 to 0xF (R76). -/
  | reservedOp
  /-- OP names an operation, and a bit outside its fields is set (R73). -/
  | mustBeZero
deriving DecidableEq, Repr

/-- Reserved OP values: 0x0 and 0x9 to 0xF (R76). -/
def opReserved (op : Nat) : Bool := decide (op = 0) || decide (9 ≤ op)

/-- The decoder: total on all words, rejecting an illegal word by name (R73 to R77). -/
def decodeWord (w : Word) : Except IllegalWord Instr :=
  match opTable.find? (rowMatches w) with
  | some r => .ok (operandsOf w r.op)
  | none => .error (if opReserved (opField w) then .reservedOp else .mustBeZero)

/-- The ORD bit at its place in the word (R71). -/
def ordBits : ByteOrder → Nat
  | .le => 0
  | .be => 0x0800

/-- The word of an operation (R79); of a well-formed one, exactly the word that spells it. -/
def encode : Instr → Word
  | .enc16be => 0x1000
  | .dec16 ord off => BitVec.ofNat 16 (0x2000 + ordBits ord + off)
  | .dec16u ord off => BitVec.ofNat 16 (0x3000 + ordBits ord + off)
  | .dec8 off => BitVec.ofNat 16 (0x4000 + off)
  | .dec8u off => BitVec.ofNat 16 (0x5000 + off)
  | .bitx off bit => BitVec.ofNat 16 (0x6000 + 256 * bit + off)
  | .decode => 0x7000
  | .trkupd => 0x8000

/-- A line of the spec's assembler (R79): the mnemonic, its suffix `.LE` or `.BE` if it has one, and its numbers
(the radix they are spelled in is lexical and is left out: log entry 13). -/
structure AsmLine where
  op : Op
  suffix : Option ByteOrder
  args : List Nat
deriving DecidableEq, Repr

/-- The operation a line spells, if it is accepted (R79): a 16-bit decode needs its suffix, no other takes one. -/
def assemble (l : AsmLine) : Option Instr :=
  match l.op, l.suffix, l.args with
  | .enc16be, none, [] => some .enc16be
  | .dec16, some ord, [off] => some (.dec16 ord off)
  | .dec16u, some ord, [off] => some (.dec16u ord off)
  | .dec8, none, [off] => some (.dec8 off)
  | .dec8u, none, [off] => some (.dec8u off)
  | .bitx, none, [off, bit] => some (.bitx off bit)
  | .decode, none, [] => some .decode
  | .trkupd, none, [] => some .trkupd
  | _, _, _ => none

/-- The word of a line (R79), for numbers that fit their fields. -/
def assembleWord (l : AsmLine) : Option Word :=
  match assemble l with
  | some i => if i.wellFormed then some (encode i) else none
  | none => none

/-- The operation the decoder reads from an instruction whose bits are `w`, of `nbits` bits given by the opcode table
(every row is one 16-bit word: R70, R78); bits above `nbits` are 0. -/
def decodeTableWord (nbits w : Nat) : Option Instr :=
  match decodeWord (BitVec.ofNat 16 (w % 2 ^ nbits)) with
  | .ok i => some i
  | .error _ => none

end Sys2Proof
end

