-- ==== Sys2Proof/Machine/HostPort.lean ====
section
/-! DEFINITION. The host's side (R53, R64 to R66, R80, R81, R214, R215, R230): taking its next action, performing the ones
that are no operation words, its macros, and the creation of a block. -/

namespace Sys2Proof.Machine

/-- A value that exists only if its valid or written bit is set (R66). -/
def ifValid (valid : Bool) (v : ReadValue) : Option ReadValue := if valid then some v else none

/-- A host read: the value of a register, or `none` where its valid or written bit is 0 (R24, R65, R66). -/
def hostRead (s : State) : ReadName → Option ReadValue
  | .arg0 => ifValid s.status.av0 (.bits s.arg0.toNat)
  | .arg1 => ifValid s.status.av1 (.bits s.arg1.toNat)
  | .res => ifValid s.status.rv (.bits s.res)
  | .out0 => ifValid s.status.ov (.bits s.out0.toNat)
  | .out1 => ifValid s.status.ov (.bits s.out1.toNat)
  | .sens => ifValid s.status.sv (.record s.sens)
  | .prevL => some (.bits s.prevL)
  | .prevR => some (.bits s.prevR)
  | .dl => ifValid s.status.dv (.bits s.dl)
  | .dr => ifValid s.status.dv (.bits s.dr)
  | .status => some (.bits (statusWord s.status).toNat)
  | .field f => some (.bits (statusField s.status f))
  | .len => some (.bits s.len)
  | .buf off => (bufRead s off).map fun b => .bits b.toNat

/-- `LOAD(bytes)`, accepted even while FAULTED (R53, R202). -/
def hostLoad (bytes : List Byte) (s : State) : Result :=
  if bytes.length ≤ s.params.bufCap then .next (writeBuf bytes s) else .refused .loadTooLong

/-- The values a host may write to an operand register (R80). -/
def argInRange (v : Int) : Bool := decide (-32768 ≤ v) && decide (v ≤ 65535)

/-- `WR ARG0, v` and `WR ARG1, v`: the pattern `uint_16(v)`, accepted even while FAULTED (R80, R202). -/
def hostWrite (a : ArgName) (v : Int) (s : State) : Result :=
  if argInRange v then .next (writeArg a (BitVec.ofNat 16 (uint 16 v)) s) else .refused .argOutOfRange

/-- `RD name`: the value goes to the host and nothing in the block changes (R24, R80). -/
def hostReadStep (n : ReadName) (s : State) : Result := .next (reply (.value n (hostRead s n)) s)

/-- The reset event (R230; log entry 11). -/
def hostReset (s : State) : Result := .next (resetBlock s)

/-- An illegal word: not accepted while FAULTED, else `Fault(ILLEGAL_OP)` (R77, R206). -/
def illegalWord (s : State) : Result := whenAccepted s (raiseFault .illegalOp s)

/-- Creating a block with given parameters: refused if they break a constraint (R7), else the block as reset leaves it. -/
def createBlock (p : Params) : Result :=
  if paramsOk p then .next (State.resetWith p) else .refused .badParameters

/-- Reader agents only read; everything else is the one issuer's (R214, R215). -/
def eventAllowed (e : HostEvent) : Bool :=
  match e.agent, e.action with
  | .issuer, _ => true
  | .other _, .rd _ => true
  | .other _, _ => false

/-- The host's next action with the state in which it is performed (the action is no longer pending), or why there is none. -/
inductive Fetched where
  | idle
  | refused (r : Refusal)
  | action (a : HostAction) (s : State)
deriving DecidableEq, Repr

/-- Takes the host's next action: the first pending one, in the order the agents issue them (R25, R64). -/
def fetchAction (s : State) : Fetched :=
  match s.pending with
  | [] => .idle
  | e :: rest => if eventAllowed e then .action e.action { s with pending := rest } else .refused .secondIssuer

/-- `s` with an operation word as the issuer's next action. -/
def issueNext (w : Word) (s : State) : State :=
  { s with pending := ⟨.issuer, .issue w⟩ :: s.pending }

/-- The macro `ENC v` (R81). -/
def encActions (v : Int) : List HostAction := [.wr .arg0 v, .issue (encode .enc16be)]

/-- The macro `TRK l, r` (R81). -/
def trkActions (l r : Int) : List HostAction := [.wr .arg0 l, .wr .arg1 r, .issue (encode .trkupd)]

/-- The row of a field table with a given name. -/
def rowNamed : List FieldRow → FieldName → Option FieldRow
  | [], _ => none
  | r :: rest, x => if x = r.name then some r else rowNamed rest x

/-- The macro `FLAG name`: `BITX off, bit` of the flag row of that name (R81). A row at offset 256 or above has no such word
(R71), and there the macro has no expansion: DESIGN CHOICE (log entry 16). -/
def flagActions (p : Params) (x : FieldName) : Option (List HostAction) :=
  match rowNamed p.fieldTable x with
  | some ⟨_, off, .flag bit⟩ => (assembleWord ⟨.bitx, none, [off, bit]⟩).map fun w => [.issue w]
  | _ => none

end Sys2Proof.Machine
end

