-- ==== Sys2Proof/Machine/Perform.lean ====
section
/-! DEFINITION. Performing one host action, an operation word among them. -/

namespace Sys2Proof.Machine

/-- Performs one host action: an operation word is decoded and run, an illegal one faults (R70, R77). -/
def perform (a : HostAction) (s : State) : Host.Outcome State Fault Refusal :=
  match a with
  | .issue w =>
    match decodeWord w with
    | .ok i => exec i s
    | .error _ => illegalWord s
  | .load bytes => hostLoad bytes s
  | .wr arg v => hostWrite arg v s
  | .rd n => hostReadStep n s
  | .reset => hostReset s

end Sys2Proof.Machine
end

