-- ==== Sys2Proof/Machine/Step.lean ====
section
/-! DEFINITION. One step: the host's next action, performed as one atomic step (R64). -/

namespace Sys2Proof.Machine

/-- One step. With nothing pending the block is idle and stays as it is (log entry 5). -/
def step (s : State) : Host.Outcome State Fault Refusal :=
  match fetchAction s with
  | .idle => .next s
  | .refused r => .refused r
  | .action a s' => perform a s'

/-- `s` with an operation word of `nbits` bits, numbered as the opcode table numbers them, as the issuer's next action. -/
def State.withFetchWord (s : State) (nbits w : Nat) : State :=
  issueNext (BitVec.ofNat 16 (w % 2 ^ nbits)) s

end Sys2Proof.Machine
end

