-- ==== Sys2Proof/Safety.lean ====
section
/-! DEFINITION. What claims about runs are stated in: the invariant of the machine, the host actions that exist, and the
outcome the spec's list of causes gives every word. -/

namespace Sys2Proof.Machine

/-- A run has gone wrong once a fault is taken (R201). -/
def Unfaulted (s : State) : Prop := s.status.faulted = false

/-- BUF holds content at exactly the offsets below LEN, and LEN is at most BUF_CAP (R51, R52, R53). -/
def BufferCoherent (s : State) : Prop :=
  s.buf.map Prod.fst = List.range s.len ∧ s.len ≤ s.params.bufCap

/-- RES, DL and DR are RES_W-bit patterns (R22, R32), PREVL and PREVR numbers of CNT_W bits (R31). -/
def WidthsHold (s : State) : Prop :=
  s.res < 2 ^ s.params.resW ∧ s.dl < 2 ^ s.params.resW ∧ s.dr < 2 ^ s.params.resW ∧
    s.prevL < 2 ^ s.params.cntW ∧ s.prevR < 2 ^ s.params.cntW

/-- How the fields of STATUS hang together: FAULTED, FCAUSE and LAST are a fault's (R42); DV and PHASE are set by the same
update (R173), which every SV comes with (R130); and with no operation since reset nothing is valid but the ARGs (R40). -/
structure StatusCoherent (st : Status) : Prop where
  faulted_iff_last : st.faulted = true ↔ st.last = .fault
  faulted_iff_cause : st.faulted = true ↔ st.fcause ≠ none
  dv_iff_tracking : st.dv = true ↔ st.phase = .tracking
  sv_tracking : st.sv = true → st.phase = .tracking
  none_fresh : st.last = .none → st.sv = false ∧ st.dv = false ∧ st.rv = false ∧ st.ov = false

/-- Before the first update the previous counters are zero (R31, R180). -/
def TrackerFresh (s : State) : Prop :=
  s.status.phase = .uninitialized → s.prevL = 0 ∧ s.prevR = 0

/-- The deltas of an update are of magnitude at most `2 ^ CNT_W` (R176). -/
def DeltasInRange (s : State) : Prop :=
  s.status.dv = true →
    (sint s.params.resW s.dl).natAbs ≤ 2 ^ s.params.cntW ∧
    (sint s.params.resW s.dr).natAbs ≤ 2 ^ s.params.cntW

/-- A value has the type of a row's kind (R30, R143). -/
def kindMatches : FieldKind → FieldVal → Bool
  | .flag _, .flag _ => true
  | .u8, .u8 _ => true
  | .i8, .i8 _ => true
  | .u16, .u16 _ => true
  | .i16, .i16 _ => true
  | _, _ => false

/-- A record has one field for each row of a table, with the row's name and type (R30, R143). -/
def recordTyped : List FieldRow → Record → Bool
  | [], [] => true
  | r :: rows, (n, v) :: rec => decide (n = r.name) && kindMatches r.kind v && recordTyped rows rec
  | _, _ => false

/-- A valid SENS is a record of FIELD_TABLE (R30). -/
def RecordHolds (s : State) : Prop :=
  s.status.sv = true → recordTyped s.params.fieldTable s.sens = true

/-- The invariant of the machine: reset gives it for parameters that meet their constraints, and every step keeps it. -/
structure Inv (s : State) : Prop where
  params : paramsOk s.params = true
  buffer : BufferCoherent s
  widths : WidthsHold s
  status : StatusCoherent s.status
  tracker : TrackerFresh s
  deltas : DeltasInRange s
  record : RecordHolds s

/-- The row covers the byte at `x`. -/
def Covers (r : FieldRow) (x : Nat) : Prop := r.off ≤ x ∧ x < r.off + r.kind.width

/-- Two rows may stand in one table: they share a byte only as flags of different bits (R133), and their names differ
(DEDUCED: log entry 7). -/
def RowsAgree (a b : FieldRow) : Prop :=
  a.name ≠ b.name ∧
    ∀ x, Covers a x → Covers b x → ∃ m n : Fin 8, a.kind = .flag m ∧ b.kind = .flag n ∧ m ≠ n

/-- The constraints of R7 and R133, one by one, and those the model deduces (log entry 7): `delta_fits`, the two counts, and
the distinct names of `RowsAgree`. -/
structure ParamsMeet (p : Params) : Prop where
  packet_fits : p.pktLen ≤ p.bufCap
  thresh_pos : 0 < p.wrapThresh
  thresh_le : p.wrapThresh ≤ 2 ^ p.cntW - 1
  wrapK_le : p.wrapK ≤ 2 ^ p.cntW
  resW_ge : 18 ≤ p.resW
  delta_fits : p.cntW + 2 ≤ p.resW
  rows_inside : ∀ r ∈ p.fieldTable, r.off + r.kind.width ≤ p.pktLen
  rows_skip : ∀ r ∈ p.fieldTable, ∀ x ∈ [9, 36, 37, 38], ¬ Covers r x
  rows_agree : p.fieldTable.Pairwise RowsAgree
  count_left : ∃ r ∈ p.fieldTable, r.name = .encoderCounts_left ∧ r.kind = .u16
  count_right : ∃ r ∈ p.fieldTable, r.name = .encoderCounts_right ∧ r.kind = .u16

/-- The host actions that exist (R53, R80, R215). -/
def eventLegal (p : Params) (e : HostEvent) : Bool :=
  eventAllowed e &&
    match e.action with
    | .load bytes => decide (bytes.length ≤ p.bufCap)
    | .wr _ v => argInRange v
    | _ => true

/-- The outcome that the list of causes (R204) and their priority (R206) give an operation. -/
def causeOf (s : State) : Instr → OpOutcome
  | .enc16be => if s.status.av0 then .ok else .fault .unwrittenArg
  | .dec16 _ off => if off + 2 > s.len then .fault .bounds else .ok
  | .dec16u _ off => if off + 2 > s.len then .fault .bounds else .ok
  | .dec8 off => if off + 1 > s.len then .fault .bounds else .ok
  | .dec8u off => if off + 1 > s.len then .fault .bounds else .ok
  | .bitx off _ => if off + 1 > s.len then .fault .bounds else .ok
  | .decode => if s.len ≠ s.params.pktLen then .errMalformed else .ok
  | .trkupd => if s.status.av0 && s.status.av1 then .ok else .fault .unwrittenArg

/-- What LAST holds after an operation with this outcome (R41, R200, R202). -/
def lastAfter (s : State) : OpOutcome → Last
  | .ok => .ok
  | .errMalformed => .errMalformed
  | .fault _ => .fault
  | .notAccepted => s.status.last

/-- The illegal words by their bits: OP 0x0 or 0x9 to 0xF (R76), or a bit outside the row's fields (R73, R74). -/
def wordIllegal (w : Word) : Bool :=
  let op := w.toNat / 4096
  decide (op = 0) || decide (9 ≤ op)
    || (decide (op = 1 ∨ op = 7 ∨ op = 8) && decide (w.toNat % 4096 ≠ 0))
    || (decide (op = 2 ∨ op = 3) && decide (w.toNat / 256 % 8 ≠ 0))
    || (decide (op = 4 ∨ op = 5) && decide (w.toNat / 256 % 16 ≠ 0))
    || (decide (op = 6) && decide (w.toNat / 2048 % 2 ≠ 0))

/-- The state a fault leaves, field by field: STATUS is written and the outcome returned, nothing else (R42, R201). -/
def faultTaken (c : FaultCause) (s : State) : State :=
  { s with
    status := { s.status with faulted := true, fcause := some c, last := .fault }
    replies := .outcome (.fault c) :: s.replies }

/-- `c` is a raw count that a 16-bit pattern gives the tracker: a number of CNT_W bits (R171), the pattern's own where that
is one (R172). -/
def IsCount (p : Params) (raw : BitVec 16) (c : Nat) : Prop :=
  c < 2 ^ p.cntW ∧ (raw.toNat < 2 ^ p.cntW → c = raw.toNat)

/-- `d` is the delta of a channel that goes from `prev` to `raw`, read as three cases (R171). -/
def IsDelta (p : Params) (raw prev : Nat) (d : Int) : Prop :=
  (prev + p.wrapThresh ≤ raw ∧ d = (raw : Int) - prev - p.wrapK) ∨
  (raw + p.wrapThresh ≤ prev ∧ d = (raw : Int) - prev + p.wrapK) ∨
  (raw < prev + p.wrapThresh ∧ prev < raw + p.wrapThresh ∧ d = (raw : Int) - prev)

/-- The codec operation that reads a row of the field table (R141). -/
def rowOperation (p : Params) (r : FieldRow) : Instr :=
  match r.kind with
  | .flag bit => .bitx r.off bit
  | .u8 => .dec8u r.off
  | .i8 => .dec8 r.off
  | .u16 => .dec16u p.pktOrd r.off
  | .i16 => .dec16 p.pktOrd r.off

end Sys2Proof.Machine
end

