-- ==== Sys2Proof/Certificates/Slice0/Obligations.lean ====
section
/-! DEFINITION. The statements for the provers, from the spec's numbered rules. -/

open Sys2Proof Sys2Proof.Machine

/-! ### Encoding -/

/-- Decoding the word of a well-formed operation gives the operation back, at every operand value (R74, R79). -/
def Obligations.DecodeOfEncodeIsIdentity : Prop :=
  ∀ i : Instr, i.wellFormed = true → decodeWord (encode i) = .ok i

/-- Each legal word has one meaning: the decoder gives a well-formed operation whose word it is (R73, R74). -/
def Obligations.EncodeOfDecodeIsIdentity : Prop :=
  ∀ (w : Word) (i : Instr), decodeWord w = .ok i → i.wellFormed = true ∧ encode i = w

/-- R74: the opcode map, row by row with its match and mask, its operands read as R72 says, and at most one row matches. -/
def Obligations.OpcodeMapDecodes : Prop :=
  ∀ w : Word,
    let ord : ByteOrder := if w.toNat / 2048 % 2 = 0 then .le else .be
    let off := w.toNat % 256
    (w &&& 0xFFFF = 0x1000 → decodeWord w = .ok .enc16be) ∧
    (w &&& 0xF700 = 0x2000 → decodeWord w = .ok (.dec16 ord off)) ∧
    (w &&& 0xF700 = 0x3000 → decodeWord w = .ok (.dec16u ord off)) ∧
    (w &&& 0xFF00 = 0x4000 → decodeWord w = .ok (.dec8 off)) ∧
    (w &&& 0xFF00 = 0x5000 → decodeWord w = .ok (.dec8u off)) ∧
    (w &&& 0xF800 = 0x6000 → decodeWord w = .ok (.bitx off (w.toNat / 256 % 8))) ∧
    (w &&& 0xFFFF = 0x7000 → decodeWord w = .ok .decode) ∧
    (w &&& 0xFFFF = 0x8000 → decodeWord w = .ok .trkupd) ∧
    (∀ a ∈ opTable, ∀ b ∈ opTable, rowMatches w a = true → rowMatches w b = true → a = b)

/-- R76: every word whose OP is 0x0 or 0x9 to 0xF is illegal, `0x0000` among them. -/
def Obligations.ReservedOpWordsAreIllegal : Prop :=
  (∀ w : Word, w.toNat / 4096 = 0 ∨ 9 ≤ w.toNat / 4096 → decodeWord w = .error .reservedOp) ∧
    decodeWord 0x0000 = .error .reservedOp

/-- R73: a word with a bit set outside its row's fields and OP spells no operation, and with R76 the decode of every word is
unique and total. -/
def Obligations.MustBeZeroBitsAreIllegal : Prop :=
  ∀ w : Word,
    (1 ≤ w.toNat / 4096 → w.toNat / 4096 ≤ 8 → wordIllegal w = true →
      decodeWord w = .error .mustBeZero) ∧
    ((∃ i, decodeWord w = .ok i) ↔ wordIllegal w = false)

/-- R77: issuing an illegal word raises `Fault(ILLEGAL_OP)`; every other word is one of the eight operations. -/
def Obligations.IssuedIllegalWordFaults : Prop :=
  ∀ (w : Word) (s : State),
    (wordIllegal w = true → s.status.faulted = false →
      perform (.issue w) s = .next (faultTaken .illegalOp s)) ∧
    (wordIllegal w = false → ∃ i, decodeWord w = .ok i ∧ perform (.issue w) s = exec i s)

/-- A few words of the spec's programs P1 to P3, one for each operation (95_test_vectors.md section 3). -/
def Obligations.ProgramWordsDecode : Prop :=
  decodeWord 0x1000 = .ok .enc16be ∧ decodeWord 0x2800 = .ok (.dec16 .be 0) ∧
  decodeWord 0x200C = .ok (.dec16 .le 12) ∧ decodeWord 0x3034 = .ok (.dec16u .le 52) ∧
  decodeWord 0x4015 = .ok (.dec8 21) ∧ decodeWord 0x5045 = .ok (.dec8u 69) ∧
  decodeWord 0x6700 = .ok (.bitx 0 7) ∧ decodeWord 0x7000 = .ok .decode ∧
  decodeWord 0x8000 = .ok .trkupd

/-! ### The codec's operations -/

/-- R101: ENC16BE writes the high byte of ARG0 to OUT0, the low byte to OUT1, and OV and LAST, or faults on an unwritten
ARG0; nothing else changes. -/
def Obligations.EncoderResult : Prop :=
  ∀ s : State, s.status.faulted = false →
    (s.status.av0 = true →
      exec .enc16be s = .next { s with
        out0 := BitVec.ofNat 8 (s.arg0.toNat / 256)
        out1 := BitVec.ofNat 8 (s.arg0.toNat % 256)
        status := { s.status with ov := true, last := .ok }
        replies := .outcome .ok :: s.replies }) ∧
    (s.status.av0 = false → exec .enc16be s = .next (faultTaken .unwrittenArg s)) ∧
    encode .enc16be = 0x1000

/-- R102: DEC16 writes the sign-extended two's-complement reading of two bytes to RES, in either byte order and at any
offset in bounds, or faults. -/
def Obligations.SignedHalfResult : Prop :=
  ∀ (s : State) (ord : ByteOrder) (off : Nat), s.status.faulted = false →
    (∀ b0 b1 : Byte, off + 2 ≤ s.len → Memory.read s.buf off = some b0 →
      Memory.read s.buf (off + 1) = some b1 →
      let u : Nat := match ord with
        | .le => b0.toNat + 256 * b1.toNat
        | .be => 256 * b0.toNat + b1.toNat
      let v : Int := if u < 32768 then u else (u : Int) - 65536
      exec (.dec16 ord off) s = .next { s with
        res := (v % (2 ^ s.params.resW : Nat)).toNat
        status := { s.status with rv := true, last := .ok }
        replies := .outcome .ok :: s.replies }) ∧
    (s.len < off + 2 → exec (.dec16 ord off) s = .next (faultTaken .bounds s)) ∧
    (off < 256 → encode (.dec16 ord off) =
      BitVec.ofNat 16 (0x2000 + (match ord with | .le => 0 | .be => 0x800) + off))

/-- R103: DEC16U writes the two bytes as an unsigned number, with no sign extension, or faults. -/
def Obligations.UnsignedHalfResult : Prop :=
  ∀ (s : State) (ord : ByteOrder) (off : Nat), s.status.faulted = false →
    (∀ b0 b1 : Byte, off + 2 ≤ s.len → Memory.read s.buf off = some b0 →
      Memory.read s.buf (off + 1) = some b1 →
      let u : Nat := match ord with
        | .le => b0.toNat + 256 * b1.toNat
        | .be => 256 * b0.toNat + b1.toNat
      exec (.dec16u ord off) s = .next { s with
        res := u % 2 ^ s.params.resW
        status := { s.status with rv := true, last := .ok }
        replies := .outcome .ok :: s.replies }) ∧
    (s.len < off + 2 → exec (.dec16u ord off) s = .next (faultTaken .bounds s)) ∧
    (off < 256 → encode (.dec16u ord off) =
      BitVec.ofNat 16 (0x3000 + (match ord with | .le => 0 | .be => 0x800) + off))

/-- R104: DEC8 writes the sign-extended two's-complement reading of one byte, or faults. -/
def Obligations.SignedByteResult : Prop :=
  ∀ (s : State) (off : Nat), s.status.faulted = false →
    (∀ b : Byte, off < s.len → Memory.read s.buf off = some b →
      let v : Int := if b.toNat < 128 then b.toNat else (b.toNat : Int) - 256
      exec (.dec8 off) s = .next { s with
        res := (v % (2 ^ s.params.resW : Nat)).toNat
        status := { s.status with rv := true, last := .ok }
        replies := .outcome .ok :: s.replies }) ∧
    (s.len ≤ off → exec (.dec8 off) s = .next (faultTaken .bounds s)) ∧
    (off < 256 → encode (.dec8 off) = BitVec.ofNat 16 (0x4000 + off))

/-- R105: DEC8U writes one byte as an unsigned number, or faults. -/
def Obligations.UnsignedByteResult : Prop :=
  ∀ (s : State) (off : Nat), s.status.faulted = false →
    (∀ b : Byte, off < s.len → Memory.read s.buf off = some b →
      exec (.dec8u off) s = .next { s with
        res := b.toNat % 2 ^ s.params.resW
        status := { s.status with rv := true, last := .ok }
        replies := .outcome .ok :: s.replies }) ∧
    (s.len ≤ off → exec (.dec8u off) s = .next (faultTaken .bounds s)) ∧
    (off < 256 → encode (.dec8u off) = BitVec.ofNat 16 (0x5000 + off))

/-- R106: BITX writes the bit under the mask as 0 or 1, never the mask value, whatever the other bits are, or faults. -/
def Obligations.BitFlagResult : Prop :=
  ∀ (s : State) (off bit : Nat), s.status.faulted = false → bit < 8 → 0 < s.params.resW →
    (∀ b : Byte, off < s.len → Memory.read s.buf off = some b →
      exec (.bitx off bit) s = .next { s with
        res := b.toNat / 2 ^ bit % 2
        status := { s.status with rv := true, last := .ok }
        replies := .outcome .ok :: s.replies }) ∧
    (s.len ≤ off → exec (.bitx off bit) s = .next (faultTaken .bounds s)) ∧
    (off < 256 → encode (.bitx off bit) = BitVec.ofNat 16 (0x6000 + 256 * bit + off))

/-- No codec result overflows: RES, read back as a signed RES_W-bit number, is the decoded value, in the range of its
operation, at every offset in bounds (R110). -/
def Obligations.CodecResultsAreExact : Prop :=
  ∀ (s : State) (off : Nat), 18 ≤ s.params.resW → s.status.faulted = false →
    (off + 2 ≤ s.len → ∀ ord u, read16 s ord off = some u →
      (∃ t, exec (.dec16 ord off) s = .next t ∧
        sint s.params.resW t.res = (if u < 32768 then (u : Int) else u - 65536) ∧
        -32768 ≤ sint s.params.resW t.res ∧ sint s.params.resW t.res ≤ 32767) ∧
      (∃ t, exec (.dec16u ord off) s = .next t ∧
        sint s.params.resW t.res = u ∧ 0 ≤ sint s.params.resW t.res ∧
        sint s.params.resW t.res ≤ 65535)) ∧
    (off + 1 ≤ s.len → ∀ b, bufRead s off = some b →
      (∃ t, exec (.dec8 off) s = .next t ∧
        sint s.params.resW t.res = (if b.toNat < 128 then (b.toNat : Int) else b.toNat - 256) ∧
        -128 ≤ sint s.params.resW t.res ∧ sint s.params.resW t.res ≤ 127) ∧
      (∃ t, exec (.dec8u off) s = .next t ∧
        sint s.params.resW t.res = b.toNat ∧ 0 ≤ sint s.params.resW t.res ∧
        sint s.params.resW t.res ≤ 255) ∧
      (∀ bit, bit < 8 → ∃ t, exec (.bitx off bit) s = .next t ∧
        sint s.params.resW t.res = (b.toNat / 2 ^ bit % 2 : Nat) ∧
        0 ≤ sint s.params.resW t.res ∧ sint s.params.resW t.res ≤ 1))

/-- Round trip: a written int16, encoded, loaded back and decoded high byte first, is itself (R111). -/
def Obligations.EncodeThenDecodeBigEndian : Prop :=
  ∀ (s : State) (v : Int), s.status.faulted = false → 2 ≤ s.params.bufCap → 18 ≤ s.params.resW →
    -32768 ≤ v → v ≤ 32767 →
    ∃ s1 s2 s3 s4 : State,
      perform (.wr .arg0 v) s = .next s1 ∧ exec .enc16be s1 = .next s2 ∧
      perform (.load [s2.out0, s2.out1]) s2 = .next s3 ∧
      exec (.dec16 .be 0) s3 = .next s4 ∧
      s4.res = (v % (2 ^ s.params.resW : Nat)).toNat ∧ sint s.params.resW s4.res = v

/-- Byte swap: after the same steps the little-endian decode gives the value with its bytes swapped, which is the value
exactly when both bytes are equal (R112). -/
def Obligations.EncodeThenDecodeLittleEndianSwaps : Prop :=
  ∀ (s : State) (v : Int), s.status.faulted = false → 2 ≤ s.params.bufCap → 18 ≤ s.params.resW →
    -32768 ≤ v → v ≤ 32767 →
    ∃ s1 s2 s3 s4 : State,
      perform (.wr .arg0 v) s = .next s1 ∧ exec .enc16be s1 = .next s2 ∧
      perform (.load [s2.out0, s2.out1]) s2 = .next s3 ∧
      exec (.dec16 .le 0) s3 = .next s4 ∧
      sint s.params.resW s4.res = sint 16 (256 * s2.out1.toNat + s2.out0.toNat) ∧
      (sint s.params.resW s4.res = v ↔ s2.out0 = s2.out1)

/-- Signed and unsigned decodes of the same bytes agree below half the range and are the range apart otherwise (R113). -/
def Obligations.SignedAndUnsignedAgree : Prop :=
  ∀ (s : State) (off : Nat), 18 ≤ s.params.resW → s.status.faulted = false →
    (∀ ord u, off + 2 ≤ s.len → read16 s ord off = some u →
      ∃ t t' : State, exec (.dec16 ord off) s = .next t ∧ exec (.dec16u ord off) s = .next t' ∧
        sint s.params.resW t'.res - sint s.params.resW t.res = if u < 32768 then 0 else 65536) ∧
    (∀ b, off < s.len → bufRead s off = some b →
      ∃ t t' : State, exec (.dec8 off) s = .next t ∧ exec (.dec8u off) s = .next t' ∧
        sint s.params.resW t'.res - sint s.params.resW t.res = if b.toNat < 128 then 0 else 256)

/-- A codec result depends on the bytes the operation names and on RES_W alone: two states that agree on these give the
same RES (R114). -/
def Obligations.CodecReadsOnlyItsBytes : Prop :=
  ∀ (s s' t t' : State) (off : Nat), s.params.resW = s'.params.resW →
    s.status.faulted = false → s'.status.faulted = false →
    (off + 2 ≤ s.len → off + 2 ≤ s'.len → (∀ x, off ≤ x → x < off + 2 → bufRead s x = bufRead s' x) →
      ∀ ord, (exec (.dec16 ord off) s = .next t → exec (.dec16 ord off) s' = .next t' → t.res = t'.res) ∧
        (exec (.dec16u ord off) s = .next t → exec (.dec16u ord off) s' = .next t' → t.res = t'.res)) ∧
    (off < s.len → off < s'.len → bufRead s off = bufRead s' off →
      (exec (.dec8 off) s = .next t → exec (.dec8 off) s' = .next t' → t.res = t'.res) ∧
      (exec (.dec8u off) s = .next t → exec (.dec8u off) s' = .next t' → t.res = t'.res) ∧
      ∀ bit, exec (.bitx off bit) s = .next t → exec (.bitx off bit) s' = .next t' → t.res = t'.res)

/-- A 16-bit read in each byte order, at every offset in bounds (R57), and the 8-bit read as one of its bytes, which the spec
marks as its own inference (R61). -/
def Obligations.HalfReadByByteOrder : Prop :=
  ∀ (s : State) (off : Nat), BufferCoherent s → off + 2 ≤ s.len →
    ∃ (b0 b1 : Byte) (l b : Nat), bufRead s off = some b0 ∧ bufRead s (off + 1) = some b1 ∧
      read16 s .le off = some l ∧ read16 s .be off = some b ∧
      l = b0.toNat + 256 * b1.toNat ∧ b = 256 * b0.toNat + b1.toNat ∧ l < 65536 ∧ b < 65536 ∧
      l % 256 = b0.toNat ∧ b / 256 = b0.toNat

/-- R205: an operation of the codec raises BOUNDS exactly when its read ends above LEN, whatever BUF_CAP is. -/
def Obligations.BoundsFaultExactlyAboveLen : Prop :=
  ∀ (s : State) (i : Instr) (off w : Nat), BufferCoherent s → s.status.faulted = false →
    ((∃ ord, i = .dec16 ord off ∨ i = .dec16u ord off) ∧ w = 2 ∨
      (i = .dec8 off ∨ i = .dec8u off ∨ ∃ bit, i = .bitx off bit) ∧ w = 1) →
    (exec i s = .next (faultTaken .bounds s) ↔ s.len < off + w) ∧
    (off + w ≤ s.len → ∃ t, exec i s = .next t ∧ t.status.last = .ok ∧ t.status.faulted = false)

/-- The frame of the codec's decodes DEC16, DEC16U, DEC8, DEC8U and BITX (R100): RES and RV, and of STATUS only LAST and
a fault's fields, may change; every byte of BUF and every other register is as before. RES changes only with Ok. -/
def Obligations.CodecDecodeFrame : Prop :=
  ∀ (s t : State) (i : Instr),
    ((∃ ord off, i = .dec16 ord off ∨ i = .dec16u ord off) ∨
      ∃ off, i = .dec8 off ∨ i = .dec8u off ∨ ∃ bit, i = .bitx off bit) →
    exec i s = .next t →
    (∀ a, Memory.read t.buf a = Memory.read s.buf a) ∧ t.len = s.len ∧
    t.arg0 = s.arg0 ∧ t.arg1 = s.arg1 ∧ t.out0 = s.out0 ∧ t.out1 = s.out1 ∧ t.sens = s.sens ∧
    t.prevL = s.prevL ∧ t.prevR = s.prevR ∧ t.dl = s.dl ∧ t.dr = s.dr ∧
    t.params = s.params ∧ t.pending = s.pending ∧
    t.status.phase = s.status.phase ∧ t.status.sv = s.status.sv ∧ t.status.dv = s.status.dv ∧
    t.status.ov = s.status.ov ∧ t.status.av0 = s.status.av0 ∧ t.status.av1 = s.status.av1 ∧
    (t.status.last ≠ .ok → t.res = s.res ∧ t.status.rv = s.status.rv) ∧
    (t.status.last ≠ .fault → t.status.faulted = s.status.faulted ∧ t.status.fcause = s.status.fcause)

/-- The frame of ENC16BE (R100, R101): OUT0, OUT1 and OV, and of STATUS only LAST and a fault's fields, may change. -/
def Obligations.EncoderFrame : Prop :=
  ∀ s t : State, exec .enc16be s = .next t →
    (∀ a, Memory.read t.buf a = Memory.read s.buf a) ∧ t.len = s.len ∧
    t.arg0 = s.arg0 ∧ t.arg1 = s.arg1 ∧ t.res = s.res ∧ t.sens = s.sens ∧
    t.prevL = s.prevL ∧ t.prevR = s.prevR ∧ t.dl = s.dl ∧ t.dr = s.dr ∧
    t.params = s.params ∧ t.pending = s.pending ∧
    t.status.phase = s.status.phase ∧ t.status.sv = s.status.sv ∧ t.status.dv = s.status.dv ∧
    t.status.rv = s.status.rv ∧ t.status.av0 = s.status.av0 ∧ t.status.av1 = s.status.av1 ∧
    (t.status.last ≠ .ok → t.out0 = s.out0 ∧ t.out1 = s.out1 ∧ t.status.ov = s.status.ov) ∧
    (t.status.last ≠ .fault → t.status.faulted = s.status.faulted ∧ t.status.fcause = s.status.fcause)

/-! ### The packet decoder -/

/-- R130: DECODE of a buffer of PKT_LEN bytes replaces SENS by the record of every row's value, then updates the tracker with
the two counts of that record, numbers of CNT_W bits (R171; that any others run too is R132); a buffer of another length is a
malformed packet. Nothing else changes. -/
def Obligations.PacketDecodeResult : Prop :=
  ∀ s : State, BufferCoherent s → paramsOk s.params = true → s.status.faulted = false →
    (s.len = s.params.pktLen →
      ∃ (rec : Record) (l r : BitVec 16),
        recordTyped s.params.fieldTable rec = true ∧
        (∀ row ∈ s.params.fieldTable, ∃ v, fieldValue s row = some v ∧ recordField rec row.name = some v) ∧
        recordField rec .encoderCounts_left = some (.u16 l) ∧
        recordField rec .encoderCounts_right = some (.u16 r) ∧
        (∃ t, exec .decode s = .next t ∧ t.sens = rec) ∧
        (l.toNat < 2 ^ s.params.cntW → r.toNat < 2 ^ s.params.cntW →
          ∃ dl dr : Int, IsDelta s.params l.toNat s.prevL dl ∧ IsDelta s.params r.toNat s.prevR dr ∧
            exec .decode s = .next { s with
              sens := rec
              prevL := l.toNat
              prevR := r.toNat
              dl := (dl % (2 ^ s.params.resW : Nat)).toNat
              dr := (dr % (2 ^ s.params.resW : Nat)).toNat
              status := { s.status with sv := true, dv := true, phase := .tracking, last := .ok }
              replies := .outcome .ok :: s.replies })) ∧
    (s.len ≠ s.params.pktLen →
      exec .decode s = .next { s with
        status := { s.status with last := .errMalformed }
        replies := .outcome .errMalformed :: s.replies }) ∧
    encode .decode = 0x7000

/-- R131: with LEN other than PKT_LEN, DECODE writes LAST alone; SENS and the tracker keep their values, no fault is
recorded and the error is returned. -/
def Obligations.MalformedLengthWritesLastOnly : Prop :=
  ∀ s : State, s.status.faulted = false → s.len ≠ s.params.pktLen →
    ∃ t : State, exec .decode s = .next t ∧
      t = { s with status := { s.status with last := .errMalformed }
                   replies := .outcome .errMalformed :: s.replies } ∧
      t.sens = s.sens ∧ t.status.sv = s.status.sv ∧ t.prevL = s.prevL ∧ t.prevR = s.prevR ∧
      t.dl = s.dl ∧ t.dr = s.dr ∧ t.status.dv = s.status.dv ∧ t.status.phase = s.status.phase ∧
      t.status.faulted = false

/-- R203: only DECODE returns `Err(MalformedPacket)`, only for a wrong length, and it does not stop the next poll: the next
DECODE of a good packet succeeds. -/
def Obligations.MalformedPacketIsNotSticky : Prop :=
  (∀ (i : Instr) (s t : State), exec i s = .next t →
    t.replies = .outcome .errMalformed :: s.replies → i = .decode ∧ s.len ≠ s.params.pktLen) ∧
  ∀ (s : State) (bytes : List Byte), paramsOk s.params = true → s.status.faulted = false →
    s.len ≠ s.params.pktLen → bytes.length = s.params.pktLen →
    ∃ t u v : State, exec .decode s = .next t ∧ t.replies = .outcome .errMalformed :: s.replies ∧
      t.sens = s.sens ∧ perform (.load bytes) t = .next u ∧ exec .decode u = .next v ∧
      v.replies = .outcome .ok :: u.replies ∧ v.status.sv = true

/-- R132: DECODE returns Ok for every content of a buffer of PKT_LEN bytes. -/
def Obligations.DecodeIsTotalOnPackets : Prop :=
  ∀ (s : State) (bytes : List Byte), paramsOk s.params = true → s.status.faulted = false →
    bytes.length = s.params.pktLen →
    ∃ u v : State, perform (.load bytes) s = .next u ∧ exec .decode u = .next v ∧
      v.status.last = .ok ∧ v.replies = .outcome .ok :: u.replies ∧
      recordTyped s.params.fieldTable v.sens = true

/-- R141: the value of a row of each kind from its bytes, and the codec operation at the same place gives the same number. -/
def Obligations.FieldValueByKind : Prop :=
  ∀ (s : State) (row : FieldRow), BufferCoherent s → row.off + row.kind.width ≤ s.len →
    s.status.faulted = false →
    ∃ v : FieldVal, fieldValue s row = some v ∧
      (∀ b0 : Byte, bufRead s row.off = some b0 →
        (∀ bit : Fin 8, row.kind = .flag bit → v = .flag (decide (b0.toNat / 2 ^ bit.val % 2 = 1))) ∧
        (row.kind = .u8 → v = .u8 b0 ∧ fieldNum v = b0.toNat) ∧
        (row.kind = .i8 → v = .i8 b0 ∧
          fieldNum v = if b0.toNat < 128 then (b0.toNat : Int) else b0.toNat - 256) ∧
        ∀ b1 : Byte, bufRead s (row.off + 1) = some b1 →
          let u : Nat := match s.params.pktOrd with
            | .le => b0.toNat + 256 * b1.toNat
            | .be => 256 * b0.toNat + b1.toNat
          (row.kind = .u16 → v = .u16 (BitVec.ofNat 16 u) ∧ fieldNum v = u) ∧
          (row.kind = .i16 → v = .i16 (BitVec.ofNat 16 u) ∧
            fieldNum v = if u < 32768 then (u : Int) else u - 65536)) ∧
      ∃ t : State, exec (rowOperation s.params row) s = .next t ∧
        t.res = (fieldNum v % (2 ^ s.params.resW : Nat)).toNat

/-- A flag row equals its bit and depends on no other bit (R142). -/
def Obligations.FlagDependsOnItsBitAlone : Prop :=
  ∀ (s s' : State) (row : FieldRow) (bit : Fin 8) (b b' : Byte), row.kind = .flag bit →
    bufRead s row.off = some b → bufRead s' row.off = some b' →
    b.getLsbD bit.val = b'.getLsbD bit.val →
    fieldValue s row = some (.flag (b.getLsbD bit.val)) ∧ fieldValue s row = fieldValue s' row

/-- R144: two packets that differ only in the unused bytes 9, 36, 37 and 38 decode to equal records and give equal tracker
updates. -/
def Obligations.UnusedBytesAreSkipped : Prop :=
  ∀ s s' : State, s.params = s'.params → paramsOk s.params = true →
    BufferCoherent s → BufferCoherent s' → s.status.faulted = false → s'.status.faulted = false →
    s.len = s.params.pktLen → s'.len = s'.params.pktLen →
    s.prevL = s'.prevL → s.prevR = s'.prevR →
    (∀ x, x ≠ 9 → x ≠ 36 → x ≠ 37 → x ≠ 38 → bufRead s x = bufRead s' x) →
    ∃ t t' : State, exec .decode s = .next t ∧ exec .decode s' = .next t' ∧ t.sens = t'.sens ∧
      t.prevL = t'.prevL ∧ t.prevR = t'.prevR ∧ t.dl = t'.dl ∧ t.dr = t'.dr

/-- R145: with the default field table, omni is byte 10, left byte 69 and right byte 70, and changing one of the three bytes
changes only its own field. -/
def Obligations.InfraredOffsets : Prop :=
  ∀ s : State, paramsOk s.params = true → s.params.fieldTable = defaultFieldTable →
    BufferCoherent s → s.status.faulted = false → s.len = s.params.pktLen →
    ∃ t : State, exec .decode s = .next t ∧
      recordField t.sens .infraredOpcodes_omni = (bufRead s 10).map .u8 ∧
      recordField t.sens .infraredOpcodes_left = (bufRead s 69).map .u8 ∧
      recordField t.sens .infraredOpcodes_right = (bufRead s 70).map .u8 ∧
      ∀ (s' : State) (x : Nat) (n : FieldName),
        (x = 10 ∧ n = .infraredOpcodes_omni ∨ x = 69 ∧ n = .infraredOpcodes_left ∨
          x = 70 ∧ n = .infraredOpcodes_right) →
        s'.params = s.params → BufferCoherent s' → s'.status.faulted = false → s'.len = s.len →
        (∀ y, y ≠ x → bufRead s' y = bufRead s y) →
        ∃ t' : State, exec .decode s' = .next t' ∧
          ∀ m, m ≠ n → recordField t'.sens m = recordField t.sens m

/-- SENS after DECODE is a function of the packet's bytes and the parameters: it does not depend on the tracker, on the
earlier SENS, or on anything else (R150, R151, R178). -/
def Obligations.RecordDependsOnBytesAlone : Prop :=
  ∀ s s' t t' : State, s.params = s'.params → s.len = s'.len → (∀ x, bufRead s x = bufRead s' x) →
    exec .decode s = .next t → exec .decode s' = .next t' →
    t.status.last = .ok → t'.status.last = .ok → s.status.faulted = false →
    s'.status.faulted = false → t.sens = t'.sens

/-- SENS and SV change only at reset and at a DECODE of PKT_LEN bytes that returns Ok, and the record is then a new one of
every row's value (R30, R150). -/
def Obligations.OnlyDecodeWritesTheRecord : Prop :=
  ∀ s t : State, step s = .next t → t.sens ≠ s.sens ∨ t.status.sv ≠ s.status.sv →
    ∃ e rest, s.pending = e :: rest ∧
      (e.action = .reset ∨
        ∃ w, e.action = .issue w ∧ decodeWord w = .ok .decode ∧ s.len = s.params.pktLen ∧
          t.replies = .outcome .ok :: s.replies ∧ fieldsOf s s.params.fieldTable = some t.sens)

/-- The frame of DECODE (R130, R131): SENS, the tracker's registers, SV, DV, PHASE and LAST may change, with Ok alone but for
LAST; DECODE writes no FAULTED, FCAUSE, RES, OUT or ARG, and every byte of BUF is as before. -/
def Obligations.PacketDecodeFrame : Prop :=
  ∀ s t : State, exec .decode s = .next t →
    (∀ a, Memory.read t.buf a = Memory.read s.buf a) ∧ t.len = s.len ∧
    t.arg0 = s.arg0 ∧ t.arg1 = s.arg1 ∧ t.res = s.res ∧ t.out0 = s.out0 ∧ t.out1 = s.out1 ∧
    t.params = s.params ∧ t.pending = s.pending ∧
    t.status.faulted = s.status.faulted ∧ t.status.fcause = s.status.fcause ∧
    t.status.rv = s.status.rv ∧ t.status.ov = s.status.ov ∧
    t.status.av0 = s.status.av0 ∧ t.status.av1 = s.status.av1 ∧
    (t.status.last ≠ .ok →
      t.sens = s.sens ∧ t.prevL = s.prevL ∧ t.prevR = s.prevR ∧ t.dl = s.dl ∧ t.dr = s.dr ∧
      t.status.sv = s.status.sv ∧ t.status.dv = s.status.dv ∧ t.status.phase = s.status.phase)

/-! ### The tracker -/

/-- R171, R172, R173: TRKUPD, on counts of CNT_W bits (R171), computes both deltas from the old previous counters by R171's three
cases, then writes DL, DR, DV, PREVL, PREVR, PHASE and LAST, or faults on an unwritten operand. Nothing else changes. -/
def Obligations.TrackerUpdateResult : Prop :=
  ∀ (s : State) (dl dr : Int), s.status.faulted = false → 0 < s.params.wrapThresh →
    (s.status.av0 = true → s.status.av1 = true →
      s.arg0.toNat < 2 ^ s.params.cntW → s.arg1.toNat < 2 ^ s.params.cntW →
      IsDelta s.params s.arg0.toNat s.prevL dl → IsDelta s.params s.arg1.toNat s.prevR dr →
      exec .trkupd s = .next { s with
        prevL := s.arg0.toNat
        prevR := s.arg1.toNat
        dl := (dl % (2 ^ s.params.resW : Nat)).toNat
        dr := (dr % (2 ^ s.params.resW : Nat)).toNat
        status := { s.status with dv := true, phase := .tracking, last := .ok }
        replies := .outcome .ok :: s.replies }) ∧
    (s.status.av0 = false ∨ s.status.av1 = false →
      exec .trkupd s = .next (faultTaken .unwrittenArg s)) ∧
    encode .trkupd = 0x8000

/-- TRKUPD of any two operands updates the tracker: it takes two counts of CNT_W bits, the operands' own where they are such
numbers (where CNT_W is below 16 and they are not, that it runs with some count is the model's choice, log entry 4); the deltas
exist and DL and DR read back as them, at most `2 ^ CNT_W` in magnitude, and within [-59999, 59999] with the defaults (R176). -/
def Obligations.DeltaRangeAndReadBack : Prop :=
  ∀ s : State, s.status.faulted = false → paramsOk s.params = true → WidthsHold s →
    s.status.av0 = true → s.status.av1 = true →
    ∃ (t : State) (l r : Nat) (d e : Int), exec .trkupd s = .next t ∧
      IsCount s.params s.arg0 l ∧ IsCount s.params s.arg1 r ∧ t.prevL = l ∧ t.prevR = r ∧
      IsDelta s.params l s.prevL d ∧ IsDelta s.params r s.prevR e ∧
      sint s.params.resW t.dl = d ∧ sint s.params.resW t.dr = e ∧
      d.natAbs ≤ 2 ^ s.params.cntW ∧ e.natAbs ≤ 2 ^ s.params.cntW ∧
      (s.params.cntW = 16 → s.params.wrapThresh = 60000 → s.params.wrapK = 65535 →
        d.natAbs ≤ 59999 ∧ e.natAbs ≤ 59999)

/-- In the wrap branch with the default constants the delta is the difference modulo 65536, one nearer to zero (R177). -/
def Obligations.WrapDeltaIsOneNearerToZero : Prop :=
  ∀ s : State, s.status.faulted = false → s.params.resW = 32 → s.params.wrapThresh = 60000 →
    s.params.wrapK = 65535 → s.params.cntW = 16 → WidthsHold s →
    s.status.av0 = true → s.status.av1 = true →
    ∃ t : State, exec .trkupd s = .next t ∧
      (s.prevL + 60000 ≤ s.arg0.toNat →
        sint 32 t.dl = (s.arg0.toNat - s.prevL - 65536 : Int) + 1 ∧
        -5535 ≤ sint 32 t.dl ∧ sint 32 t.dl ≤ 0) ∧
      (s.arg0.toNat + 60000 ≤ s.prevL →
        sint 32 t.dl = (s.arg0.toNat - s.prevL + 65536 : Int) - 1 ∧
        0 ≤ sint 32 t.dl ∧ sint 32 t.dl ≤ 5535)

/-- R174: each channel's delta depends only on its own raw count and its own old count, and no flag records a branch. -/
def Obligations.TrackerChannelsAreIndependent : Prop :=
  ∀ s s' : State, s.params = s'.params → s.status.faulted = false → s'.status.faulted = false →
    s.status.av0 = true → s.status.av1 = true → s'.status.av0 = true → s'.status.av1 = true →
    ∃ t t' : State, exec .trkupd s = .next t ∧ exec .trkupd s' = .next t' ∧
      (s.arg0 = s'.arg0 → s.prevL = s'.prevL → t.dl = t'.dl) ∧
      (s.arg1 = s'.arg1 → s.prevR = s'.prevR → t.dr = t'.dr) ∧
      t.status = { s.status with dv := true, phase := .tracking, last := .ok }

/-- R175: PREVL, PREVR, DL, DR, DV and PHASE change only at reset, at TRKUPD and at a DECODE of PKT_LEN bytes, each of the
last two returning Ok. -/
def Obligations.OnlyTheTrackerWritesItsState : Prop :=
  ∀ s t : State, step s = .next t →
    t.prevL ≠ s.prevL ∨ t.prevR ≠ s.prevR ∨ t.dl ≠ s.dl ∨ t.dr ≠ s.dr ∨
      t.status.dv ≠ s.status.dv ∨ t.status.phase ≠ s.status.phase →
    ∃ e rest, s.pending = e :: rest ∧
      (e.action = .reset ∨
        ∃ w, e.action = .issue w ∧ t.replies = .outcome .ok :: s.replies ∧
          (decodeWord w = .ok .trkupd ∨ decodeWord w = .ok .decode ∧ s.len = s.params.pktLen))

/-- The first update after reset computes against zero, so a reading at or above the threshold is taken as a wrap; the
tracker is then Tracking, and no later step but reset changes that (R180). The counts are the operands' own where they are numbers
of CNT_W bits (elsewhere the model's choice, log entry 4). -/
def Obligations.FirstUpdateComputesAgainstZero : Prop :=
  (∀ s : State, Inv s → s.status.faulted = false → s.status.phase = .uninitialized →
    s.status.av0 = true → s.status.av1 = true →
    ∃ (t : State) (l r : Nat), exec .trkupd s = .next t ∧ t.status.phase = .tracking ∧
      IsCount s.params s.arg0 l ∧ IsCount s.params s.arg1 r ∧
      sint s.params.resW t.dl =
        (if s.params.wrapThresh ≤ l then (l : Int) - s.params.wrapK else l) ∧
      sint s.params.resW t.dr =
        (if s.params.wrapThresh ≤ r then (r : Int) - s.params.wrapK else r)) ∧
  ∀ s t : State, step s = .next t → s.status.phase = .tracking →
    t.status.phase = .tracking ∨ ∃ e rest, s.pending = e :: rest ∧ e.action = .reset

/-- Issuing the same TRKUPD twice, or decoding the same packet twice, gives zero deltas the second time (R181). -/
def Obligations.RepeatedUpdateGivesZero : Prop :=
  ∀ (s t u : State) (i : Instr), i = .trkupd ∨ i = .decode → 0 < s.params.wrapThresh →
    s.status.faulted = false → exec i s = .next t → t.status.last = .ok → exec i t = .next u →
    u.dl = 0 ∧ u.dr = 0 ∧ u.prevL = t.prevL ∧ u.prevR = t.prevR

/-- The frame of TRKUPD (R172): the tracker's registers, DV, PHASE, LAST and a fault's fields may change, the tracker's only
with Ok; every byte of BUF and every other register is as before. -/
def Obligations.TrackerUpdateFrame : Prop :=
  ∀ s t : State, exec .trkupd s = .next t →
    (∀ a, Memory.read t.buf a = Memory.read s.buf a) ∧ t.len = s.len ∧
    t.arg0 = s.arg0 ∧ t.arg1 = s.arg1 ∧ t.res = s.res ∧ t.out0 = s.out0 ∧ t.out1 = s.out1 ∧
    t.sens = s.sens ∧ t.params = s.params ∧ t.pending = s.pending ∧
    t.status.sv = s.status.sv ∧ t.status.rv = s.status.rv ∧ t.status.ov = s.status.ov ∧
    t.status.av0 = s.status.av0 ∧ t.status.av1 = s.status.av1 ∧
    (t.status.last ≠ .ok →
      t.prevL = s.prevL ∧ t.prevR = s.prevR ∧ t.dl = s.dl ∧ t.dr = s.dr ∧
      t.status.dv = s.status.dv ∧ t.status.phase = s.status.phase) ∧
    (t.status.last ≠ .fault → t.status.faulted = s.status.faulted ∧ t.status.fcause = s.status.fcause)

/-! ### STATUS, faults and priority -/

/-- The STATUS word holds each field at its place with its code, and the reserved bits read 0 (R40). -/
def Obligations.StatusWordLayout : Prop :=
  ∀ st : Status,
    let w := (statusWord st).toNat
    let bit := fun b : Bool => if b then 1 else 0
    w % 4 = (match st.last with | .none => 0 | .ok => 1 | .errMalformed => 2 | .fault => 3) ∧
    w / 4 % 8 = (match st.fcause with
      | none => 0 | some .illegalOp => 1 | some .unwrittenArg => 2 | some .bounds => 3) ∧
    w / 32 % 2 = bit st.faulted ∧
    w / 64 % 2 = (match st.phase with | .uninitialized => 0 | .tracking => 1) ∧
    w / 128 % 2 = bit st.sv ∧ w / 256 % 2 = bit st.dv ∧ w / 512 % 2 = bit st.rv ∧
    w / 1024 % 2 = bit st.ov ∧ w / 2048 % 2 = bit st.av0 ∧ w / 4096 % 2 = bit st.av1 ∧ w / 8192 = 0

/-- R206: every issued word has exactly one outcome, the first of the list that applies: not accepted, ILLEGAL_OP, an unwritten
operand, bounds or length, Ok; and LAST repeats it (R200), except that a word not accepted leaves LAST. -/
def Obligations.OutcomeOfEveryWord : Prop :=
  ∀ (s : State) (w : Word), Inv s →
    ∃ (t : State) (o : OpOutcome), perform (.issue w) s = .next t ∧
      t.replies = .outcome o :: s.replies ∧ t.status.last = lastAfter s o ∧
      (s.status.faulted = true → o = .notAccepted) ∧
      (s.status.faulted = false → wordIllegal w = true → o = .fault .illegalOp) ∧
      (∀ i, s.status.faulted = false → decodeWord w = .ok i → o = causeOf s i)

/-- R42, R201: a word that ends in a fault sets FAULTED, FCAUSE and LAST and writes nothing else; only reset clears FAULTED
and FCAUSE. -/
def Obligations.FaultsArePrecise : Prop :=
  (∀ (s t : State) (w : Word) (c : FaultCause), perform (.issue w) s = .next t →
    t.replies = .outcome (.fault c) :: s.replies → t = faultTaken c s) ∧
  ∀ s t : State, step s = .next t → s.status.faulted = true →
    (t.status.faulted = true ∧ t.status.fcause = s.status.fcause) ∨
      ∃ e rest, s.pending = e :: rest ∧ e.action = .reset

/-- R202: while FAULTED no word is accepted and nothing is written, LAST included; LOAD, WR and reads still act; only reset
clears FAULTED. -/
def Obligations.FaultedBlockAcceptsNoWord : Prop :=
  ∀ s : State, s.status.faulted = true →
    (∀ w, perform (.issue w) s = .next { s with replies := .outcome .notAccepted :: s.replies }) ∧
    (∀ bytes : List Byte, bytes.length ≤ s.params.bufCap →
      ∃ t, perform (.load bytes) s = .next t ∧ t.len = bytes.length ∧
        (∀ x, bufRead t x = bytes[x]?) ∧ t.status = s.status) ∧
    (∀ v : Int, -32768 ≤ v → v ≤ 65535 →
      (∃ t, perform (.wr .arg0 v) s = .next t ∧ (t.arg0.toNat : Int) = v % 65536 ∧
        t.status = { s.status with av0 := true }) ∧
      (∃ t, perform (.wr .arg1 v) s = .next t ∧ (t.arg1.toNat : Int) = v % 65536 ∧
        t.status = { s.status with av1 := true })) ∧
    (∀ n, perform (.rd n) s = .next { s with replies := .value n (hostRead s n) :: s.replies }) ∧
    (∃ t, perform .reset s = .next t ∧ t.status.faulted = false) ∧
    (∀ a t, perform a s = .next t → t.status.faulted = false → a = .reset)

/-! ### The host's side -/

/-- Reset puts every piece of the block's state at its reset value: no content, no register with a value to read, zero
counters, Uninitialized, STATUS 0x0000 (R230). The bits under a register with no value are the model's choice (log entry 2) and
are not stated. -/
def Obligations.ResetLeavesResetValues : Prop :=
  (∃ t, createBlock defaultParams = .next t ∧ t = State.reset) ∧
  ∀ s : State, ∃ t : State, perform .reset s = .next t ∧
    t.len = 0 ∧ (∀ x, bufRead t x = none) ∧ t.prevL = 0 ∧ t.prevR = 0 ∧
    t.status.phase = .uninitialized ∧ statusWord t.status = 0x0000 ∧
    hostRead t .arg0 = none ∧ hostRead t .arg1 = none ∧ hostRead t .res = none ∧
    hostRead t .out0 = none ∧ hostRead t .out1 = none ∧ hostRead t .sens = none ∧
    hostRead t .dl = none ∧ hostRead t .dr = none ∧ t.params = s.params

/-- Creating a block with parameters that meet every constraint of `ParamsMeet` gives the reset state, with any others it is
refused (R7, R133): among the others are tables with two non-flag rows that share a byte, a flag row that shares one with a row
of no flag or of the same bit, and, DEDUCED by the model (log entry 7), repeated names, encoder counts that are missing or no
`u16` rows, and RES_W below CNT_W + 2. -/
def Obligations.BadParametersAreRefused : Prop :=
  ∀ p : Params,
    (ParamsMeet p → createBlock p = .next (State.resetWith p)) ∧
    (¬ ParamsMeet p → createBlock p = .refused .badParameters)

/-- LOAD of up to BUF_CAP bytes sets the content and LEN, with the earlier content gone, and changes no register and no
STATUS field, while FAULTED too (R53). The host has no longer LOAD, and that the model refuses one by name is its own inference
(DEDUCED: log entry 12). -/
def Obligations.LoadReplacesTheBuffer : Prop :=
  ∀ (s : State) (bytes : List Byte),
    (bytes.length ≤ s.params.bufCap →
      ∃ m : Memory, perform (.load bytes) s = .next { s with buf := m, len := bytes.length } ∧
        Memory.wf m = true ∧
        ∀ x, bufRead { s with buf := m, len := bytes.length } x = bytes[x]?) ∧
    (s.params.bufCap < bytes.length → perform (.load bytes) s = .refused .loadTooLong)

/-- WR writes the 16-bit pattern of its value to one operand register and sets its written bit, and nothing else (R21, R80). That
the model refuses a value outside R80's range by name is its own inference (DEDUCED: log entry 12). -/
def Obligations.WriteSetsOneOperand : Prop :=
  ∀ (s : State) (v : Int),
    (-32768 ≤ v → v ≤ 65535 →
      perform (.wr .arg0 v) s = .next { s with
        arg0 := BitVec.ofInt 16 v, status := { s.status with av0 := true } } ∧
      perform (.wr .arg1 v) s = .next { s with
        arg1 := BitVec.ofInt 16 v, status := { s.status with av1 := true } }) ∧
    (v < -32768 ∨ 65535 < v → ∀ a, perform (.wr a v) s = .refused .argOutOfRange)

/-- A host read of a register whose valid or written bit is 0 returns `none`; with the bit 1 it returns the register (R66). PREVL,
PREVR, the word of STATUS and each of its fields always have a value (R24, R31, R40). That LEN and a byte of BUF can be read
is the model's inference (DEDUCED: log entry 10). -/
def Obligations.ReadOfInvalidRegisterIsNone : Prop :=
  ∀ s : State,
    let bit := fun b : Bool => some (ReadValue.bits (if b then 1 else 0))
    (∀ n, perform (.rd n) s = .next { s with replies := .value n (hostRead s n) :: s.replies }) ∧
    hostRead s .res = (if s.status.rv then some (.bits s.res) else none) ∧
    hostRead s .out0 = (if s.status.ov then some (.bits s.out0.toNat) else none) ∧
    hostRead s .out1 = (if s.status.ov then some (.bits s.out1.toNat) else none) ∧
    hostRead s .sens = (if s.status.sv then some (.record s.sens) else none) ∧
    hostRead s .dl = (if s.status.dv then some (.bits s.dl) else none) ∧
    hostRead s .dr = (if s.status.dv then some (.bits s.dr) else none) ∧
    hostRead s .arg0 = (if s.status.av0 then some (.bits s.arg0.toNat) else none) ∧
    hostRead s .arg1 = (if s.status.av1 then some (.bits s.arg1.toNat) else none) ∧
    hostRead s .prevL = some (.bits s.prevL) ∧ hostRead s .prevR = some (.bits s.prevR) ∧
    hostRead s .status = some (.bits (statusWord s.status).toNat) ∧
    hostRead s (.field .last) = some (.bits (match s.status.last with
      | .none => 0 | .ok => 1 | .errMalformed => 2 | .fault => 3)) ∧
    hostRead s (.field .fcause) = some (.bits (match s.status.fcause with
      | none => 0 | some .illegalOp => 1 | some .unwrittenArg => 2 | some .bounds => 3)) ∧
    hostRead s (.field .faulted) = bit s.status.faulted ∧
    hostRead s (.field .phase) = some (.bits (match s.status.phase with
      | .uninitialized => 0 | .tracking => 1)) ∧
    hostRead s (.field .sv) = bit s.status.sv ∧ hostRead s (.field .dv) = bit s.status.dv ∧
    hostRead s (.field .rv) = bit s.status.rv ∧ hostRead s (.field .ov) = bit s.status.ov ∧
    hostRead s (.field .av0) = bit s.status.av0 ∧ hostRead s (.field .av1) = bit s.status.av1 ∧
    hostRead s .len = some (.bits s.len) ∧
    (∀ off, s.len ≤ off → hostRead s (.buf off) = none) ∧
    ∀ off, off < s.len →
      hostRead s (.buf off) = (Memory.read s.buf off).map fun b => .bits b.toNat

/-- What the host has been told stays: a step adds at most one reply before the earlier ones, so a record once read is a copy
that later operations do not change (R65). -/
def Obligations.RepliesAreSnapshots : Prop :=
  ∀ s t : State, step s = .next t → t.replies = s.replies ∨ ∃ r, t.replies = r :: s.replies

/-- The parameters never change (R232). -/
def Obligations.ParametersAreFixed : Prop :=
  ∀ s t : State, step s = .next t → t.params = s.params

/-- No agent but the issuer does anything but read: any other action of one is refused, and a read changes nothing in the
block (R214, R215). R215 refuses operations and LOADs of a second agent; that its WR is refused too is the model's inference
(DEDUCED: log entry 12), and that its reset is refused is the model's choice (DESIGN CHOICE: log entry 11). -/
def Obligations.SecondIssuerIsRefused : Prop :=
  ∀ (s : State) (e : HostEvent) (rest : List HostEvent) (k : Nat),
    s.pending = e :: rest → e.agent = .other k →
    ((∀ n, e.action ≠ .rd n) → step s = .refused .secondIssuer) ∧
    (∀ n, e.action = .rd n →
      step s = .next { s with pending := rest, replies := .value n (hostRead s n) :: s.replies })

/-- The macro FLAG of a flag row is one BITX word that reads the bit DECODE puts in the row's field (R81, R141). A row at offset
256 or above has no BITX word, and that FLAG then has no expansion is the model's choice (log entry 16). -/
def Obligations.FlagMacroReadsTheField : Prop :=
  ∀ (s : State) (row : FieldRow) (bit : Fin 8), paramsOk s.params = true → BufferCoherent s →
    s.status.faulted = false → s.len = s.params.pktLen → row ∈ s.params.fieldTable →
    row.kind = .flag bit →
    (row.off < 256 →
      ∃ (w : Word) (t : State) (b : Bool), flagActions s.params row.name = some [.issue w] ∧
        decodeWord w = .ok (.bitx row.off bit) ∧ perform (.issue w) s = .next t ∧
        fieldValue s row = some (.flag b) ∧ t.res = if b then 1 else 0) ∧
    (256 ≤ row.off → flagActions s.params row.name = none)

/-! ### The machine -/

/-- A step runs the decoded operation: the issuer's next action is taken from the pending ones and performed on the rest, an
operation word decoded and run, an illegal one taking its fault; the word that `withFetchWord` places is run next. With nothing
pending a step changes nothing, which is the model's own convention (log entry 5). -/
def Obligations.StepRunsTheDecodedWord : Prop :=
  ∀ s : State,
    (∀ (w : Word) (rest : List HostEvent), s.pending = ⟨.issuer, .issue w⟩ :: rest →
      (∀ i, decodeWord w = .ok i → step s = exec i { s with pending := rest }) ∧
      ∀ e, decodeWord w = .error e → s.status.faulted = false →
        step s = .next (faultTaken .illegalOp { s with pending := rest })) ∧
    (∀ (w : Word) (i : Instr), decodeTableWord 16 w.toNat = some i →
      step (s.withFetchWord 16 w.toNat) = exec i s) ∧
    (∀ (a : HostAction) (rest : List HostEvent), s.pending = ⟨.issuer, a⟩ :: rest →
      step s = perform a { s with pending := rest }) ∧
    (s.pending = [] → step s = .next s)

/-- The invariant holds at reset, with the default parameters and with any others that meet their constraints. -/
def Obligations.ResetMeetsTheInvariant : Prop :=
  Inv State.reset ∧ ∀ p : Params, paramsOk p = true → Inv (State.resetWith p)

/-- Every step keeps the invariant: content exactly below LEN, results of RES_W bits, a coherent STATUS, zero counters before
the first update, deltas in range, and a valid record typed by the field table. -/
def Obligations.StepKeepsTheInvariant : Prop :=
  ∀ s t : State, Inv s → step s = .next t → Inv t

/-- Every step keeps the canonical form of the buffer, from any state that has it. -/
def Obligations.StepKeepsTheBufferCanonical : Prop :=
  ∀ s t : State, Memory.wf s.buf = true → step s = .next t → Memory.wf t.buf = true

/-- From a state that meets the invariant, a step with a host action that exists never stops the model. -/
def Obligations.NoStopOnExistingActions : Prop :=
  ∀ s : State, Inv s → (∀ e ∈ s.pending.head?, eventLegal s.params e = true) →
    ∃ t : State, step s = .next t ∧ t.pending = s.pending.tail

/-- A host program of `n` actions that exist ends after `n` steps with nothing pending (R251), the invariant still met. -/
def Obligations.HostProgramEnds : Prop :=
  ∀ s : State, Inv s → (∀ e ∈ s.pending, eventLegal s.params e = true) →
    ∃ t : State, core.run s.pending.length s = .next t ∧ t.pending = [] ∧ Inv t
end

