-- ==== Sys2Proof/Laws/Decode.lean ====
section
/-! SUPPORT. The fields of a word and the rows it matches, as arithmetic on the word's number. -/

namespace Sys2Proof

theorem opField_eq (w : Word) : opField w = w.toNat / 4096 := by
  have := w.isLt
  simp only [opField, BitVec.extractLsb'_toNat, Nat.shiftRight_eq_div_pow]
  omega

theorem offField_eq (w : Word) : offField w = w.toNat % 256 := by
  simp [offField, BitVec.extractLsb'_toNat]

theorem bitField_eq (w : Word) : bitField w = w.toNat / 256 % 8 := by
  simp [bitField, BitVec.extractLsb'_toNat, Nat.shiftRight_eq_div_pow]

theorem ordField_eq (w : Word) : ordField w = if w.toNat / 2048 % 2 = 0 then .le else .be := by
  simp only [ordField, BitVec.getLsbD, Nat.testBit_eq_decide_div_mod_eq]
  norm_num
  by_cases h : w.toNat / 2048 % 2 = 0 <;> simp [h]

/-- A mask of the high byte alone reads the high byte alone. -/
theorem and_highByte (w : Word) (m p : Nat) (hm : m < 256) (hp : p < 256) :
    w &&& BitVec.ofNat 16 (256 * m) = BitVec.ofNat 16 (256 * p) ↔ (w.toNat / 256) &&& m = p := by
  have hdiv : (w.toNat &&& 256 * m) / 2 ^ 8 = w.toNat / 2 ^ 8 &&& 256 * m / 2 ^ 8 :=
    Nat.and_div_two_pow
  have hmod : (w.toNat &&& 256 * m) % 2 ^ 8 = w.toNat % 2 ^ 8 &&& 256 * m % 2 ^ 8 :=
    Nat.and_mod_two_pow
  have e1 : 256 * m / 2 ^ 8 = m := by omega
  have e2 : 256 * m % 2 ^ 8 = 0 := by omega
  rw [e1] at hdiv
  rw [e2, Nat.and_zero] at hmod
  rw [← BitVec.toNat_inj, BitVec.toNat_and, BitVec.toNat_ofNat, BitVec.toNat_ofNat,
    Nat.mod_eq_of_lt (by omega : 256 * m < 2 ^ 16), Nat.mod_eq_of_lt (by omega : 256 * p < 2 ^ 16)]
  norm_num at hdiv hmod ⊢
  omega

/-- The high byte of a word matches a masked pattern, by cases on its value. -/
theorem highByte_match {P : Nat → Prop} {m p : Nat} (h : ∀ x : Fin 256, (x.val &&& m = p) ↔ P x.val)
    (w : Word) : (w.toNat / 256) &&& m = p ↔ P (w.toNat / 256) :=
  h ⟨w.toNat / 256, by have := w.isLt; omega⟩

theorem rowMatches_16 (w : Word) (ord : Bool) :
    w &&& 0xF700 = (if ord then 0x3000 else 0x2000) ↔
      w.toNat / 4096 = (if ord then 3 else 2) ∧ w.toNat / 256 % 8 = 0 := by
  have hd : ∀ n : Nat, n / 256 / 16 = n / 4096 := fun n => Nat.div_div_eq_div_mul n 256 16
  cases ord
  · rw [show (0xF700 : Word) = BitVec.ofNat 16 (256 * 0xF7) from rfl,
      show (if false = true then (0x3000 : Word) else 0x2000) = BitVec.ofNat 16 (256 * 0x20) from rfl,
      and_highByte w _ _ (by decide) (by decide),
      highByte_match (P := fun x => x / 16 = 2 ∧ x % 8 = 0) (by decide +kernel) w, hd]
    rfl
  · rw [show (0xF700 : Word) = BitVec.ofNat 16 (256 * 0xF7) from rfl,
      show (if true = true then (0x3000 : Word) else 0x2000) = BitVec.ofNat 16 (256 * 0x30) from rfl,
      and_highByte w _ _ (by decide) (by decide),
      highByte_match (P := fun x => x / 16 = 3 ∧ x % 8 = 0) (by decide +kernel) w, hd]
    rfl

theorem rowMatches_dec16 (w : Word) :
    w &&& 0xF700 = 0x2000 ↔ w.toNat / 4096 = 2 ∧ w.toNat / 256 % 8 = 0 := rowMatches_16 w false

theorem rowMatches_dec16u (w : Word) :
    w &&& 0xF700 = 0x3000 ↔ w.toNat / 4096 = 3 ∧ w.toNat / 256 % 8 = 0 := rowMatches_16 w true

theorem rowMatches_dec8 (w : Word) : w &&& 0xFF00 = 0x4000 ↔ w.toNat / 256 = 0x40 := by
  rw [show (0xFF00 : Word) = BitVec.ofNat 16 (256 * 0xFF) from rfl,
    show (0x4000 : Word) = BitVec.ofNat 16 (256 * 0x40) from rfl,
    and_highByte w _ _ (by decide) (by decide)]
  exact highByte_match (P := fun x => x = 0x40) (by decide +kernel) w

theorem rowMatches_dec8u (w : Word) : w &&& 0xFF00 = 0x5000 ↔ w.toNat / 256 = 0x50 := by
  rw [show (0xFF00 : Word) = BitVec.ofNat 16 (256 * 0xFF) from rfl,
    show (0x5000 : Word) = BitVec.ofNat 16 (256 * 0x50) from rfl,
    and_highByte w _ _ (by decide) (by decide)]
  exact highByte_match (P := fun x => x = 0x50) (by decide +kernel) w

theorem rowMatches_bitx (w : Word) :
    w &&& 0xF800 = 0x6000 ↔ w.toNat / 4096 = 6 ∧ w.toNat / 2048 % 2 = 0 := by
  have h1 : w.toNat / 256 / 16 = w.toNat / 4096 := Nat.div_div_eq_div_mul _ 256 16
  have h2 : w.toNat / 256 / 8 = w.toNat / 2048 := Nat.div_div_eq_div_mul _ 256 8
  rw [show (0xF800 : Word) = BitVec.ofNat 16 (256 * 0xF8) from rfl,
    show (0x6000 : Word) = BitVec.ofNat 16 (256 * 0x60) from rfl,
    and_highByte w _ _ (by decide) (by decide),
    highByte_match (P := fun x => x / 16 = 6 ∧ x / 8 % 2 = 0) (by decide +kernel) w, h1, h2]

theorem and_allBits (w : Word) : w &&& 0xFFFF = w := by
  rw [show (0xFFFF : Word) = BitVec.allOnes 16 from rfl, BitVec.and_allOnes]

/-- The decoder as a chain of comparisons on the word's number. -/
theorem decodeWord_eq (w : Word) : decodeWord w =
    if w = 0x1000 then .ok .enc16be
    else if w.toNat / 4096 = 2 ∧ w.toNat / 256 % 8 = 0 then .ok (.dec16 (ordField w) (w.toNat % 256))
    else if w.toNat / 4096 = 3 ∧ w.toNat / 256 % 8 = 0 then .ok (.dec16u (ordField w) (w.toNat % 256))
    else if w.toNat / 256 = 0x40 then .ok (.dec8 (w.toNat % 256))
    else if w.toNat / 256 = 0x50 then .ok (.dec8u (w.toNat % 256))
    else if w.toNat / 4096 = 6 ∧ w.toNat / 2048 % 2 = 0 then
      .ok (.bitx (w.toNat % 256) (w.toNat / 256 % 8))
    else if w = 0x7000 then .ok .decode
    else if w = 0x8000 then .ok .trkupd
    else .error (if opReserved (w.toNat / 4096) then .reservedOp else .mustBeZero) := by
  simp only [decodeWord, opTable, List.find?, rowMatches, and_allBits, rowMatches_dec16,
    rowMatches_dec16u, rowMatches_dec8, rowMatches_dec8u, rowMatches_bitx, opField_eq]
  by_cases h1 : w = 0x1000
  · simp only [decide_eq_true h1, if_pos h1, operandsOf]
  simp only [decide_eq_false h1, if_neg h1]
  by_cases h2 : w.toNat / 4096 = 2 ∧ w.toNat / 256 % 8 = 0
  · simp only [decide_eq_true h2, if_pos h2, operandsOf, offField_eq]
  simp only [decide_eq_false h2, if_neg h2]
  by_cases h3 : w.toNat / 4096 = 3 ∧ w.toNat / 256 % 8 = 0
  · simp only [decide_eq_true h3, if_pos h3, operandsOf, offField_eq]
  simp only [decide_eq_false h3, if_neg h3]
  by_cases h4 : w.toNat / 256 = 0x40
  · simp only [decide_eq_true h4, if_pos h4, operandsOf, offField_eq]
  simp only [decide_eq_false h4, if_neg h4]
  by_cases h5 : w.toNat / 256 = 0x50
  · simp only [decide_eq_true h5, if_pos h5, operandsOf, offField_eq]
  simp only [decide_eq_false h5, if_neg h5]
  by_cases h6 : w.toNat / 4096 = 6 ∧ w.toNat / 2048 % 2 = 0
  · simp only [decide_eq_true h6, if_pos h6, operandsOf, offField_eq, bitField_eq]
  simp only [decide_eq_false h6, if_neg h6]
  by_cases h7 : w = 0x7000
  · simp only [decide_eq_true h7, if_pos h7, operandsOf]
  simp only [decide_eq_false h7, if_neg h7]
  by_cases h8 : w = 0x8000
  · simp only [decide_eq_true h8, if_pos h8, operandsOf]
  simp only [decide_eq_false h8, if_neg h8]

end Sys2Proof
end

