-- ==== Sys2Proof/Laws/State.lean ====
section
/-! SUPPORT. One lemma per field per update of the state and of STATUS. -/

namespace Sys2Proof.Machine

@[simp] theorem reply_params (r : Reply) (s : State) :
    (reply r s).params = s.params := rfl
@[simp] theorem reply_buf (r : Reply) (s : State) :
    (reply r s).buf = s.buf := rfl
@[simp] theorem reply_len (r : Reply) (s : State) :
    (reply r s).len = s.len := rfl
@[simp] theorem reply_arg0 (r : Reply) (s : State) :
    (reply r s).arg0 = s.arg0 := rfl
@[simp] theorem reply_arg1 (r : Reply) (s : State) :
    (reply r s).arg1 = s.arg1 := rfl
@[simp] theorem reply_res (r : Reply) (s : State) :
    (reply r s).res = s.res := rfl
@[simp] theorem reply_out0 (r : Reply) (s : State) :
    (reply r s).out0 = s.out0 := rfl
@[simp] theorem reply_out1 (r : Reply) (s : State) :
    (reply r s).out1 = s.out1 := rfl
@[simp] theorem reply_sens (r : Reply) (s : State) :
    (reply r s).sens = s.sens := rfl
@[simp] theorem reply_prevL (r : Reply) (s : State) :
    (reply r s).prevL = s.prevL := rfl
@[simp] theorem reply_prevR (r : Reply) (s : State) :
    (reply r s).prevR = s.prevR := rfl
@[simp] theorem reply_dl (r : Reply) (s : State) :
    (reply r s).dl = s.dl := rfl
@[simp] theorem reply_dr (r : Reply) (s : State) :
    (reply r s).dr = s.dr := rfl
@[simp] theorem reply_status (r : Reply) (s : State) :
    (reply r s).status = s.status := rfl
@[simp] theorem reply_pending (r : Reply) (s : State) :
    (reply r s).pending = s.pending := rfl
@[simp] theorem reply_replies (r : Reply) (s : State) :
    (reply r s).replies = r :: s.replies := rfl

@[simp] theorem conclude_params (o : OpOutcome) (st : Status) (s : State) :
    (conclude o st s).params = s.params := rfl
@[simp] theorem conclude_buf (o : OpOutcome) (st : Status) (s : State) :
    (conclude o st s).buf = s.buf := rfl
@[simp] theorem conclude_len (o : OpOutcome) (st : Status) (s : State) :
    (conclude o st s).len = s.len := rfl
@[simp] theorem conclude_arg0 (o : OpOutcome) (st : Status) (s : State) :
    (conclude o st s).arg0 = s.arg0 := rfl
@[simp] theorem conclude_arg1 (o : OpOutcome) (st : Status) (s : State) :
    (conclude o st s).arg1 = s.arg1 := rfl
@[simp] theorem conclude_res (o : OpOutcome) (st : Status) (s : State) :
    (conclude o st s).res = s.res := rfl
@[simp] theorem conclude_out0 (o : OpOutcome) (st : Status) (s : State) :
    (conclude o st s).out0 = s.out0 := rfl
@[simp] theorem conclude_out1 (o : OpOutcome) (st : Status) (s : State) :
    (conclude o st s).out1 = s.out1 := rfl
@[simp] theorem conclude_sens (o : OpOutcome) (st : Status) (s : State) :
    (conclude o st s).sens = s.sens := rfl
@[simp] theorem conclude_prevL (o : OpOutcome) (st : Status) (s : State) :
    (conclude o st s).prevL = s.prevL := rfl
@[simp] theorem conclude_prevR (o : OpOutcome) (st : Status) (s : State) :
    (conclude o st s).prevR = s.prevR := rfl
@[simp] theorem conclude_dl (o : OpOutcome) (st : Status) (s : State) :
    (conclude o st s).dl = s.dl := rfl
@[simp] theorem conclude_dr (o : OpOutcome) (st : Status) (s : State) :
    (conclude o st s).dr = s.dr := rfl
@[simp] theorem conclude_status (o : OpOutcome) (st : Status) (s : State) :
    (conclude o st s).status = st := rfl
@[simp] theorem conclude_pending (o : OpOutcome) (st : Status) (s : State) :
    (conclude o st s).pending = s.pending := rfl
@[simp] theorem conclude_replies (o : OpOutcome) (st : Status) (s : State) :
    (conclude o st s).replies = .outcome o :: s.replies := rfl

@[simp] theorem writeRes_params (v : Nat) (s : State) :
    (writeRes v s).params = s.params := rfl
@[simp] theorem writeRes_buf (v : Nat) (s : State) :
    (writeRes v s).buf = s.buf := rfl
@[simp] theorem writeRes_len (v : Nat) (s : State) :
    (writeRes v s).len = s.len := rfl
@[simp] theorem writeRes_arg0 (v : Nat) (s : State) :
    (writeRes v s).arg0 = s.arg0 := rfl
@[simp] theorem writeRes_arg1 (v : Nat) (s : State) :
    (writeRes v s).arg1 = s.arg1 := rfl
@[simp] theorem writeRes_res (v : Nat) (s : State) :
    (writeRes v s).res = v := rfl
@[simp] theorem writeRes_out0 (v : Nat) (s : State) :
    (writeRes v s).out0 = s.out0 := rfl
@[simp] theorem writeRes_out1 (v : Nat) (s : State) :
    (writeRes v s).out1 = s.out1 := rfl
@[simp] theorem writeRes_sens (v : Nat) (s : State) :
    (writeRes v s).sens = s.sens := rfl
@[simp] theorem writeRes_prevL (v : Nat) (s : State) :
    (writeRes v s).prevL = s.prevL := rfl
@[simp] theorem writeRes_prevR (v : Nat) (s : State) :
    (writeRes v s).prevR = s.prevR := rfl
@[simp] theorem writeRes_dl (v : Nat) (s : State) :
    (writeRes v s).dl = s.dl := rfl
@[simp] theorem writeRes_dr (v : Nat) (s : State) :
    (writeRes v s).dr = s.dr := rfl
@[simp] theorem writeRes_status (v : Nat) (s : State) :
    (writeRes v s).status = setRV s.status := rfl
@[simp] theorem writeRes_pending (v : Nat) (s : State) :
    (writeRes v s).pending = s.pending := rfl
@[simp] theorem writeRes_replies (v : Nat) (s : State) :
    (writeRes v s).replies = s.replies := rfl

@[simp] theorem writeOut_params (hi lo : Byte) (s : State) :
    (writeOut hi lo s).params = s.params := rfl
@[simp] theorem writeOut_buf (hi lo : Byte) (s : State) :
    (writeOut hi lo s).buf = s.buf := rfl
@[simp] theorem writeOut_len (hi lo : Byte) (s : State) :
    (writeOut hi lo s).len = s.len := rfl
@[simp] theorem writeOut_arg0 (hi lo : Byte) (s : State) :
    (writeOut hi lo s).arg0 = s.arg0 := rfl
@[simp] theorem writeOut_arg1 (hi lo : Byte) (s : State) :
    (writeOut hi lo s).arg1 = s.arg1 := rfl
@[simp] theorem writeOut_res (hi lo : Byte) (s : State) :
    (writeOut hi lo s).res = s.res := rfl
@[simp] theorem writeOut_out0 (hi lo : Byte) (s : State) :
    (writeOut hi lo s).out0 = hi := rfl
@[simp] theorem writeOut_out1 (hi lo : Byte) (s : State) :
    (writeOut hi lo s).out1 = lo := rfl
@[simp] theorem writeOut_sens (hi lo : Byte) (s : State) :
    (writeOut hi lo s).sens = s.sens := rfl
@[simp] theorem writeOut_prevL (hi lo : Byte) (s : State) :
    (writeOut hi lo s).prevL = s.prevL := rfl
@[simp] theorem writeOut_prevR (hi lo : Byte) (s : State) :
    (writeOut hi lo s).prevR = s.prevR := rfl
@[simp] theorem writeOut_dl (hi lo : Byte) (s : State) :
    (writeOut hi lo s).dl = s.dl := rfl
@[simp] theorem writeOut_dr (hi lo : Byte) (s : State) :
    (writeOut hi lo s).dr = s.dr := rfl
@[simp] theorem writeOut_status (hi lo : Byte) (s : State) :
    (writeOut hi lo s).status = setOV s.status := rfl
@[simp] theorem writeOut_pending (hi lo : Byte) (s : State) :
    (writeOut hi lo s).pending = s.pending := rfl
@[simp] theorem writeOut_replies (hi lo : Byte) (s : State) :
    (writeOut hi lo s).replies = s.replies := rfl

@[simp] theorem writeSens_params (rec : Record) (s : State) :
    (writeSens rec s).params = s.params := rfl
@[simp] theorem writeSens_buf (rec : Record) (s : State) :
    (writeSens rec s).buf = s.buf := rfl
@[simp] theorem writeSens_len (rec : Record) (s : State) :
    (writeSens rec s).len = s.len := rfl
@[simp] theorem writeSens_arg0 (rec : Record) (s : State) :
    (writeSens rec s).arg0 = s.arg0 := rfl
@[simp] theorem writeSens_arg1 (rec : Record) (s : State) :
    (writeSens rec s).arg1 = s.arg1 := rfl
@[simp] theorem writeSens_res (rec : Record) (s : State) :
    (writeSens rec s).res = s.res := rfl
@[simp] theorem writeSens_out0 (rec : Record) (s : State) :
    (writeSens rec s).out0 = s.out0 := rfl
@[simp] theorem writeSens_out1 (rec : Record) (s : State) :
    (writeSens rec s).out1 = s.out1 := rfl
@[simp] theorem writeSens_sens (rec : Record) (s : State) :
    (writeSens rec s).sens = rec := rfl
@[simp] theorem writeSens_prevL (rec : Record) (s : State) :
    (writeSens rec s).prevL = s.prevL := rfl
@[simp] theorem writeSens_prevR (rec : Record) (s : State) :
    (writeSens rec s).prevR = s.prevR := rfl
@[simp] theorem writeSens_dl (rec : Record) (s : State) :
    (writeSens rec s).dl = s.dl := rfl
@[simp] theorem writeSens_dr (rec : Record) (s : State) :
    (writeSens rec s).dr = s.dr := rfl
@[simp] theorem writeSens_status (rec : Record) (s : State) :
    (writeSens rec s).status = setSV s.status := rfl
@[simp] theorem writeSens_pending (rec : Record) (s : State) :
    (writeSens rec s).pending = s.pending := rfl
@[simp] theorem writeSens_replies (rec : Record) (s : State) :
    (writeSens rec s).replies = s.replies := rfl

@[simp] theorem writeTracker_params (l r dl dr : Nat) (s : State) :
    (writeTracker l r dl dr s).params = s.params := rfl
@[simp] theorem writeTracker_buf (l r dl dr : Nat) (s : State) :
    (writeTracker l r dl dr s).buf = s.buf := rfl
@[simp] theorem writeTracker_len (l r dl dr : Nat) (s : State) :
    (writeTracker l r dl dr s).len = s.len := rfl
@[simp] theorem writeTracker_arg0 (l r dl dr : Nat) (s : State) :
    (writeTracker l r dl dr s).arg0 = s.arg0 := rfl
@[simp] theorem writeTracker_arg1 (l r dl dr : Nat) (s : State) :
    (writeTracker l r dl dr s).arg1 = s.arg1 := rfl
@[simp] theorem writeTracker_res (l r dl dr : Nat) (s : State) :
    (writeTracker l r dl dr s).res = s.res := rfl
@[simp] theorem writeTracker_out0 (l r dl dr : Nat) (s : State) :
    (writeTracker l r dl dr s).out0 = s.out0 := rfl
@[simp] theorem writeTracker_out1 (l r dl dr : Nat) (s : State) :
    (writeTracker l r dl dr s).out1 = s.out1 := rfl
@[simp] theorem writeTracker_sens (l r dl dr : Nat) (s : State) :
    (writeTracker l r dl dr s).sens = s.sens := rfl
@[simp] theorem writeTracker_prevL (l r dl dr : Nat) (s : State) :
    (writeTracker l r dl dr s).prevL = l := rfl
@[simp] theorem writeTracker_prevR (l r dl dr : Nat) (s : State) :
    (writeTracker l r dl dr s).prevR = r := rfl
@[simp] theorem writeTracker_dl (l r dl dr : Nat) (s : State) :
    (writeTracker l r dl dr s).dl = dl := rfl
@[simp] theorem writeTracker_dr (l r dl dr : Nat) (s : State) :
    (writeTracker l r dl dr s).dr = dr := rfl
@[simp] theorem writeTracker_status (l r dl dr : Nat) (s : State) :
    (writeTracker l r dl dr s).status = setTracked s.status := rfl
@[simp] theorem writeTracker_pending (l r dl dr : Nat) (s : State) :
    (writeTracker l r dl dr s).pending = s.pending := rfl
@[simp] theorem writeTracker_replies (l r dl dr : Nat) (s : State) :
    (writeTracker l r dl dr s).replies = s.replies := rfl

@[simp] theorem trackerUpdate_params (l r : BitVec 16) (s : State) :
    (trackerUpdate l r s).params = s.params := rfl
@[simp] theorem trackerUpdate_buf (l r : BitVec 16) (s : State) :
    (trackerUpdate l r s).buf = s.buf := rfl
@[simp] theorem trackerUpdate_len (l r : BitVec 16) (s : State) :
    (trackerUpdate l r s).len = s.len := rfl
@[simp] theorem trackerUpdate_arg0 (l r : BitVec 16) (s : State) :
    (trackerUpdate l r s).arg0 = s.arg0 := rfl
@[simp] theorem trackerUpdate_arg1 (l r : BitVec 16) (s : State) :
    (trackerUpdate l r s).arg1 = s.arg1 := rfl
@[simp] theorem trackerUpdate_res (l r : BitVec 16) (s : State) :
    (trackerUpdate l r s).res = s.res := rfl
@[simp] theorem trackerUpdate_out0 (l r : BitVec 16) (s : State) :
    (trackerUpdate l r s).out0 = s.out0 := rfl
@[simp] theorem trackerUpdate_out1 (l r : BitVec 16) (s : State) :
    (trackerUpdate l r s).out1 = s.out1 := rfl
@[simp] theorem trackerUpdate_sens (l r : BitVec 16) (s : State) :
    (trackerUpdate l r s).sens = s.sens := rfl
@[simp] theorem trackerUpdate_prevL (l r : BitVec 16) (s : State) :
    (trackerUpdate l r s).prevL = countOf s.params l := rfl
@[simp] theorem trackerUpdate_prevR (l r : BitVec 16) (s : State) :
    (trackerUpdate l r s).prevR = countOf s.params r := rfl
@[simp] theorem trackerUpdate_dl (l r : BitVec 16) (s : State) :
    (trackerUpdate l r s).dl =
      sext s.params.resW (delta s.params (countOf s.params l) s.prevL) := rfl
@[simp] theorem trackerUpdate_dr (l r : BitVec 16) (s : State) :
    (trackerUpdate l r s).dr =
      sext s.params.resW (delta s.params (countOf s.params r) s.prevR) := rfl
@[simp] theorem trackerUpdate_status (l r : BitVec 16) (s : State) :
    (trackerUpdate l r s).status = setTracked s.status := rfl
@[simp] theorem trackerUpdate_pending (l r : BitVec 16) (s : State) :
    (trackerUpdate l r s).pending = s.pending := rfl
@[simp] theorem trackerUpdate_replies (l r : BitVec 16) (s : State) :
    (trackerUpdate l r s).replies = s.replies := rfl

@[simp] theorem writeBuf_params (bytes : List Byte) (s : State) :
    (writeBuf bytes s).params = s.params := rfl
@[simp] theorem writeBuf_buf (bytes : List Byte) (s : State) :
    (writeBuf bytes s).buf = cellsFrom 0 bytes := rfl
@[simp] theorem writeBuf_len (bytes : List Byte) (s : State) :
    (writeBuf bytes s).len = bytes.length := rfl
@[simp] theorem writeBuf_arg0 (bytes : List Byte) (s : State) :
    (writeBuf bytes s).arg0 = s.arg0 := rfl
@[simp] theorem writeBuf_arg1 (bytes : List Byte) (s : State) :
    (writeBuf bytes s).arg1 = s.arg1 := rfl
@[simp] theorem writeBuf_res (bytes : List Byte) (s : State) :
    (writeBuf bytes s).res = s.res := rfl
@[simp] theorem writeBuf_out0 (bytes : List Byte) (s : State) :
    (writeBuf bytes s).out0 = s.out0 := rfl
@[simp] theorem writeBuf_out1 (bytes : List Byte) (s : State) :
    (writeBuf bytes s).out1 = s.out1 := rfl
@[simp] theorem writeBuf_sens (bytes : List Byte) (s : State) :
    (writeBuf bytes s).sens = s.sens := rfl
@[simp] theorem writeBuf_prevL (bytes : List Byte) (s : State) :
    (writeBuf bytes s).prevL = s.prevL := rfl
@[simp] theorem writeBuf_prevR (bytes : List Byte) (s : State) :
    (writeBuf bytes s).prevR = s.prevR := rfl
@[simp] theorem writeBuf_dl (bytes : List Byte) (s : State) :
    (writeBuf bytes s).dl = s.dl := rfl
@[simp] theorem writeBuf_dr (bytes : List Byte) (s : State) :
    (writeBuf bytes s).dr = s.dr := rfl
@[simp] theorem writeBuf_status (bytes : List Byte) (s : State) :
    (writeBuf bytes s).status = s.status := rfl
@[simp] theorem writeBuf_pending (bytes : List Byte) (s : State) :
    (writeBuf bytes s).pending = s.pending := rfl
@[simp] theorem writeBuf_replies (bytes : List Byte) (s : State) :
    (writeBuf bytes s).replies = s.replies := rfl

@[simp] theorem issueNext_params (w : Word) (s : State) :
    (issueNext w s).params = s.params := rfl
@[simp] theorem issueNext_buf (w : Word) (s : State) :
    (issueNext w s).buf = s.buf := rfl
@[simp] theorem issueNext_len (w : Word) (s : State) :
    (issueNext w s).len = s.len := rfl
@[simp] theorem issueNext_arg0 (w : Word) (s : State) :
    (issueNext w s).arg0 = s.arg0 := rfl
@[simp] theorem issueNext_arg1 (w : Word) (s : State) :
    (issueNext w s).arg1 = s.arg1 := rfl
@[simp] theorem issueNext_res (w : Word) (s : State) :
    (issueNext w s).res = s.res := rfl
@[simp] theorem issueNext_out0 (w : Word) (s : State) :
    (issueNext w s).out0 = s.out0 := rfl
@[simp] theorem issueNext_out1 (w : Word) (s : State) :
    (issueNext w s).out1 = s.out1 := rfl
@[simp] theorem issueNext_sens (w : Word) (s : State) :
    (issueNext w s).sens = s.sens := rfl
@[simp] theorem issueNext_prevL (w : Word) (s : State) :
    (issueNext w s).prevL = s.prevL := rfl
@[simp] theorem issueNext_prevR (w : Word) (s : State) :
    (issueNext w s).prevR = s.prevR := rfl
@[simp] theorem issueNext_dl (w : Word) (s : State) :
    (issueNext w s).dl = s.dl := rfl
@[simp] theorem issueNext_dr (w : Word) (s : State) :
    (issueNext w s).dr = s.dr := rfl
@[simp] theorem issueNext_status (w : Word) (s : State) :
    (issueNext w s).status = s.status := rfl
@[simp] theorem issueNext_pending (w : Word) (s : State) :
    (issueNext w s).pending = ⟨.issuer, .issue w⟩ :: s.pending := rfl
@[simp] theorem issueNext_replies (w : Word) (s : State) :
    (issueNext w s).replies = s.replies := rfl

@[simp] theorem writeArg_params (a : ArgName) (v : BitVec 16) (s : State) :
    (writeArg a v s).params = s.params := by cases a <;> rfl
@[simp] theorem writeArg_buf (a : ArgName) (v : BitVec 16) (s : State) :
    (writeArg a v s).buf = s.buf := by cases a <;> rfl
@[simp] theorem writeArg_len (a : ArgName) (v : BitVec 16) (s : State) :
    (writeArg a v s).len = s.len := by cases a <;> rfl
@[simp] theorem writeArg_res (a : ArgName) (v : BitVec 16) (s : State) :
    (writeArg a v s).res = s.res := by cases a <;> rfl
@[simp] theorem writeArg_out0 (a : ArgName) (v : BitVec 16) (s : State) :
    (writeArg a v s).out0 = s.out0 := by cases a <;> rfl
@[simp] theorem writeArg_out1 (a : ArgName) (v : BitVec 16) (s : State) :
    (writeArg a v s).out1 = s.out1 := by cases a <;> rfl
@[simp] theorem writeArg_sens (a : ArgName) (v : BitVec 16) (s : State) :
    (writeArg a v s).sens = s.sens := by cases a <;> rfl
@[simp] theorem writeArg_prevL (a : ArgName) (v : BitVec 16) (s : State) :
    (writeArg a v s).prevL = s.prevL := by cases a <;> rfl
@[simp] theorem writeArg_prevR (a : ArgName) (v : BitVec 16) (s : State) :
    (writeArg a v s).prevR = s.prevR := by cases a <;> rfl
@[simp] theorem writeArg_dl (a : ArgName) (v : BitVec 16) (s : State) :
    (writeArg a v s).dl = s.dl := by cases a <;> rfl
@[simp] theorem writeArg_dr (a : ArgName) (v : BitVec 16) (s : State) :
    (writeArg a v s).dr = s.dr := by cases a <;> rfl
@[simp] theorem writeArg_pending (a : ArgName) (v : BitVec 16) (s : State) :
    (writeArg a v s).pending = s.pending := by cases a <;> rfl
@[simp] theorem writeArg_replies (a : ArgName) (v : BitVec 16) (s : State) :
    (writeArg a v s).replies = s.replies := by cases a <;> rfl
@[simp] theorem writeArg_status (a : ArgName) (v : BitVec 16) (s : State) :
    (writeArg a v s).status = setArgWritten a s.status := by cases a <;> rfl
@[simp] theorem writeArg0_arg0 (v : BitVec 16) (s : State) : (writeArg .arg0 v s).arg0 = v := rfl
@[simp] theorem writeArg0_arg1 (v : BitVec 16) (s : State) : (writeArg .arg0 v s).arg1 = s.arg1 := rfl
@[simp] theorem writeArg1_arg0 (v : BitVec 16) (s : State) : (writeArg .arg1 v s).arg0 = s.arg0 := rfl
@[simp] theorem writeArg1_arg1 (v : BitVec 16) (s : State) : (writeArg .arg1 v s).arg1 = v := rfl

@[simp] theorem resetBlock_params (s : State) : (resetBlock s).params = s.params := rfl
@[simp] theorem resetBlock_buf (s : State) : (resetBlock s).buf = (State.resetWith s.params).buf := rfl
@[simp] theorem resetBlock_len (s : State) : (resetBlock s).len = (State.resetWith s.params).len := rfl
@[simp] theorem resetBlock_arg0 (s : State) : (resetBlock s).arg0 = (State.resetWith s.params).arg0 := rfl
@[simp] theorem resetBlock_arg1 (s : State) : (resetBlock s).arg1 = (State.resetWith s.params).arg1 := rfl
@[simp] theorem resetBlock_res (s : State) : (resetBlock s).res = (State.resetWith s.params).res := rfl
@[simp] theorem resetBlock_out0 (s : State) : (resetBlock s).out0 = (State.resetWith s.params).out0 := rfl
@[simp] theorem resetBlock_out1 (s : State) : (resetBlock s).out1 = (State.resetWith s.params).out1 := rfl
@[simp] theorem resetBlock_sens (s : State) : (resetBlock s).sens = (State.resetWith s.params).sens := rfl
@[simp] theorem resetBlock_prevL (s : State) : (resetBlock s).prevL = (State.resetWith s.params).prevL := rfl
@[simp] theorem resetBlock_prevR (s : State) : (resetBlock s).prevR = (State.resetWith s.params).prevR := rfl
@[simp] theorem resetBlock_dl (s : State) : (resetBlock s).dl = (State.resetWith s.params).dl := rfl
@[simp] theorem resetBlock_dr (s : State) : (resetBlock s).dr = (State.resetWith s.params).dr := rfl
@[simp] theorem resetBlock_status (s : State) : (resetBlock s).status = (State.resetWith s.params).status := rfl
@[simp] theorem resetBlock_pending (s : State) : (resetBlock s).pending = s.pending := rfl
@[simp] theorem resetBlock_replies (s : State) : (resetBlock s).replies = s.replies := rfl

@[simp] theorem resetWith_params (p : Params) : (State.resetWith p).params = p := rfl
@[simp] theorem resetWith_buf (p : Params) : (State.resetWith p).buf = [] := rfl
@[simp] theorem resetWith_len (p : Params) : (State.resetWith p).len = 0 := rfl
@[simp] theorem resetWith_arg0 (p : Params) : (State.resetWith p).arg0 = 0 := rfl
@[simp] theorem resetWith_arg1 (p : Params) : (State.resetWith p).arg1 = 0 := rfl
@[simp] theorem resetWith_res (p : Params) : (State.resetWith p).res = 0 := rfl
@[simp] theorem resetWith_out0 (p : Params) : (State.resetWith p).out0 = 0 := rfl
@[simp] theorem resetWith_out1 (p : Params) : (State.resetWith p).out1 = 0 := rfl
@[simp] theorem resetWith_sens (p : Params) : (State.resetWith p).sens = [] := rfl
@[simp] theorem resetWith_prevL (p : Params) : (State.resetWith p).prevL = 0 := rfl
@[simp] theorem resetWith_prevR (p : Params) : (State.resetWith p).prevR = 0 := rfl
@[simp] theorem resetWith_dl (p : Params) : (State.resetWith p).dl = 0 := rfl
@[simp] theorem resetWith_dr (p : Params) : (State.resetWith p).dr = 0 := rfl
@[simp] theorem resetWith_status (p : Params) : (State.resetWith p).status = Status.reset := rfl
@[simp] theorem resetWith_pending (p : Params) : (State.resetWith p).pending = [] := rfl
@[simp] theorem resetWith_replies (p : Params) : (State.resetWith p).replies = [] := rfl

@[simp] theorem setLast_last (l : Last) (st : Status) : (setLast l st).last = l := rfl
@[simp] theorem setLast_fcause (l : Last) (st : Status) : (setLast l st).fcause = st.fcause := rfl
@[simp] theorem setLast_faulted (l : Last) (st : Status) : (setLast l st).faulted = st.faulted := rfl
@[simp] theorem setLast_phase (l : Last) (st : Status) : (setLast l st).phase = st.phase := rfl
@[simp] theorem setLast_sv (l : Last) (st : Status) : (setLast l st).sv = st.sv := rfl
@[simp] theorem setLast_dv (l : Last) (st : Status) : (setLast l st).dv = st.dv := rfl
@[simp] theorem setLast_rv (l : Last) (st : Status) : (setLast l st).rv = st.rv := rfl
@[simp] theorem setLast_ov (l : Last) (st : Status) : (setLast l st).ov = st.ov := rfl
@[simp] theorem setLast_av0 (l : Last) (st : Status) : (setLast l st).av0 = st.av0 := rfl
@[simp] theorem setLast_av1 (l : Last) (st : Status) : (setLast l st).av1 = st.av1 := rfl

@[simp] theorem setFault_last (c : FaultCause) (st : Status) : (setFault c st).last = .fault := rfl
@[simp] theorem setFault_fcause (c : FaultCause) (st : Status) : (setFault c st).fcause = some c := rfl
@[simp] theorem setFault_faulted (c : FaultCause) (st : Status) : (setFault c st).faulted = true := rfl
@[simp] theorem setFault_phase (c : FaultCause) (st : Status) : (setFault c st).phase = st.phase := rfl
@[simp] theorem setFault_sv (c : FaultCause) (st : Status) : (setFault c st).sv = st.sv := rfl
@[simp] theorem setFault_dv (c : FaultCause) (st : Status) : (setFault c st).dv = st.dv := rfl
@[simp] theorem setFault_rv (c : FaultCause) (st : Status) : (setFault c st).rv = st.rv := rfl
@[simp] theorem setFault_ov (c : FaultCause) (st : Status) : (setFault c st).ov = st.ov := rfl
@[simp] theorem setFault_av0 (c : FaultCause) (st : Status) : (setFault c st).av0 = st.av0 := rfl
@[simp] theorem setFault_av1 (c : FaultCause) (st : Status) : (setFault c st).av1 = st.av1 := rfl

@[simp] theorem setRV_last (st : Status) : (setRV st).last = st.last := rfl
@[simp] theorem setRV_fcause (st : Status) : (setRV st).fcause = st.fcause := rfl
@[simp] theorem setRV_faulted (st : Status) : (setRV st).faulted = st.faulted := rfl
@[simp] theorem setRV_phase (st : Status) : (setRV st).phase = st.phase := rfl
@[simp] theorem setRV_sv (st : Status) : (setRV st).sv = st.sv := rfl
@[simp] theorem setRV_dv (st : Status) : (setRV st).dv = st.dv := rfl
@[simp] theorem setRV_rv (st : Status) : (setRV st).rv = true := rfl
@[simp] theorem setRV_ov (st : Status) : (setRV st).ov = st.ov := rfl
@[simp] theorem setRV_av0 (st : Status) : (setRV st).av0 = st.av0 := rfl
@[simp] theorem setRV_av1 (st : Status) : (setRV st).av1 = st.av1 := rfl

@[simp] theorem setOV_last (st : Status) : (setOV st).last = st.last := rfl
@[simp] theorem setOV_fcause (st : Status) : (setOV st).fcause = st.fcause := rfl
@[simp] theorem setOV_faulted (st : Status) : (setOV st).faulted = st.faulted := rfl
@[simp] theorem setOV_phase (st : Status) : (setOV st).phase = st.phase := rfl
@[simp] theorem setOV_sv (st : Status) : (setOV st).sv = st.sv := rfl
@[simp] theorem setOV_dv (st : Status) : (setOV st).dv = st.dv := rfl
@[simp] theorem setOV_rv (st : Status) : (setOV st).rv = st.rv := rfl
@[simp] theorem setOV_ov (st : Status) : (setOV st).ov = true := rfl
@[simp] theorem setOV_av0 (st : Status) : (setOV st).av0 = st.av0 := rfl
@[simp] theorem setOV_av1 (st : Status) : (setOV st).av1 = st.av1 := rfl

@[simp] theorem setSV_last (st : Status) : (setSV st).last = st.last := rfl
@[simp] theorem setSV_fcause (st : Status) : (setSV st).fcause = st.fcause := rfl
@[simp] theorem setSV_faulted (st : Status) : (setSV st).faulted = st.faulted := rfl
@[simp] theorem setSV_phase (st : Status) : (setSV st).phase = st.phase := rfl
@[simp] theorem setSV_sv (st : Status) : (setSV st).sv = true := rfl
@[simp] theorem setSV_dv (st : Status) : (setSV st).dv = st.dv := rfl
@[simp] theorem setSV_rv (st : Status) : (setSV st).rv = st.rv := rfl
@[simp] theorem setSV_ov (st : Status) : (setSV st).ov = st.ov := rfl
@[simp] theorem setSV_av0 (st : Status) : (setSV st).av0 = st.av0 := rfl
@[simp] theorem setSV_av1 (st : Status) : (setSV st).av1 = st.av1 := rfl

@[simp] theorem setTracked_last (st : Status) : (setTracked st).last = st.last := rfl
@[simp] theorem setTracked_fcause (st : Status) : (setTracked st).fcause = st.fcause := rfl
@[simp] theorem setTracked_faulted (st : Status) : (setTracked st).faulted = st.faulted := rfl
@[simp] theorem setTracked_phase (st : Status) : (setTracked st).phase = .tracking := rfl
@[simp] theorem setTracked_sv (st : Status) : (setTracked st).sv = st.sv := rfl
@[simp] theorem setTracked_dv (st : Status) : (setTracked st).dv = true := rfl
@[simp] theorem setTracked_rv (st : Status) : (setTracked st).rv = st.rv := rfl
@[simp] theorem setTracked_ov (st : Status) : (setTracked st).ov = st.ov := rfl
@[simp] theorem setTracked_av0 (st : Status) : (setTracked st).av0 = st.av0 := rfl
@[simp] theorem setTracked_av1 (st : Status) : (setTracked st).av1 = st.av1 := rfl

@[simp] theorem setArgWritten_last (a : ArgName) (st : Status) : (setArgWritten a st).last = st.last := by
  cases a <;> rfl
@[simp] theorem setArgWritten_fcause (a : ArgName) (st : Status) : (setArgWritten a st).fcause = st.fcause := by
  cases a <;> rfl
@[simp] theorem setArgWritten_faulted (a : ArgName) (st : Status) : (setArgWritten a st).faulted = st.faulted := by
  cases a <;> rfl
@[simp] theorem setArgWritten_phase (a : ArgName) (st : Status) : (setArgWritten a st).phase = st.phase := by
  cases a <;> rfl
@[simp] theorem setArgWritten_sv (a : ArgName) (st : Status) : (setArgWritten a st).sv = st.sv := by
  cases a <;> rfl
@[simp] theorem setArgWritten_dv (a : ArgName) (st : Status) : (setArgWritten a st).dv = st.dv := by
  cases a <;> rfl
@[simp] theorem setArgWritten_rv (a : ArgName) (st : Status) : (setArgWritten a st).rv = st.rv := by
  cases a <;> rfl
@[simp] theorem setArgWritten_ov (a : ArgName) (st : Status) : (setArgWritten a st).ov = st.ov := by
  cases a <;> rfl
@[simp] theorem setArgWritten0_av0 (st : Status) : (setArgWritten .arg0 st).av0 = true := rfl
@[simp] theorem setArgWritten0_av1 (st : Status) : (setArgWritten .arg0 st).av1 = st.av1 := rfl
@[simp] theorem setArgWritten1_av0 (st : Status) : (setArgWritten .arg1 st).av0 = st.av0 := rfl
@[simp] theorem setArgWritten1_av1 (st : Status) : (setArgWritten .arg1 st).av1 = true := rfl

@[simp] theorem status_reset_last : Status.reset.last = .none := rfl
@[simp] theorem status_reset_fcause : Status.reset.fcause = none := rfl
@[simp] theorem status_reset_faulted : Status.reset.faulted = false := rfl
@[simp] theorem status_reset_phase : Status.reset.phase = .uninitialized := rfl
@[simp] theorem status_reset_sv : Status.reset.sv = false := rfl
@[simp] theorem status_reset_dv : Status.reset.dv = false := rfl
@[simp] theorem status_reset_rv : Status.reset.rv = false := rfl
@[simp] theorem status_reset_ov : Status.reset.ov = false := rfl
@[simp] theorem status_reset_av0 : Status.reset.av0 = false := rfl
@[simp] theorem status_reset_av1 : Status.reset.av1 = false := rfl

end Sys2Proof.Machine
end

