-- ==== Sys2Proof/Laws/Flags.lean ====
section
/-! SUPPORT. The STATUS word as a sum of its fields (R40). -/

namespace Sys2Proof.Machine

theorem bitNum_le (b : Bool) : bitNum b ≤ 1 := by cases b <;> decide

theorem lastNum_le (l : Last) : lastNum l ≤ 3 := by cases l <;> decide

theorem fcauseNum_le (c : Option FaultCause) : fcauseNum c ≤ 3 := by
  rcases c with _ | (_ | _ | _) <;> decide

theorem phaseNum_le (p : Phase) : phaseNum p ≤ 1 := by cases p <;> decide

/-- The STATUS word as a number: no field runs into the next. -/
theorem statusWord_toNat (st : Status) : (statusWord st).toNat =
    lastNum st.last + 4 * fcauseNum st.fcause + 32 * bitNum st.faulted + 64 * phaseNum st.phase
      + 128 * bitNum st.sv + 256 * bitNum st.dv + 512 * bitNum st.rv + 1024 * bitNum st.ov
      + 2048 * bitNum st.av0 + 4096 * bitNum st.av1 := by
  have h1 := lastNum_le st.last
  have h2 := fcauseNum_le st.fcause
  have h3 := phaseNum_le st.phase
  have hb := bitNum_le
  have f := hb st.faulted
  have sv := hb st.sv
  have dv := hb st.dv
  have rv := hb st.rv
  have ov := hb st.ov
  have a0 := hb st.av0
  have a1 := hb st.av1
  simp only [statusWord, statusFields, List.map_cons, List.map_nil, List.sum_cons, List.sum_nil,
    statusField, statusShift, BitVec.toNat_ofNat]
  rw [Nat.mod_eq_of_lt (by omega)]
  omega

end Sys2Proof.Machine
end

