-- ==== Sys2Proof/Laws/Memory.lean ====
section
/-! SUPPORT. Laws of the buffer: what LOAD leaves, its canonical form, and reads of a coherent buffer. -/

namespace Sys2Proof.Machine

@[simp] theorem Memory.read_nil (x : Nat) : Memory.read [] x = none := rfl

/-- What LOAD's cells read as (R53). -/
theorem read_cellsFrom (bytes : List Byte) (base x : Nat) :
    Memory.read (cellsFrom base bytes) x = if base ≤ x then bytes[x - base]? else none := by
  induction bytes generalizing base with
  | nil => simp [cellsFrom]
  | cons b bytes ih =>
    simp only [cellsFrom, Memory.read, ih]
    by_cases hx : x = base
    · simp [hx]
    · by_cases hb : base ≤ x
      · obtain ⟨k, rfl⟩ : ∃ k, x = base + 1 + k := ⟨x - base - 1, by omega⟩
        have h1 : base + 1 + k - base = k + 1 := by omega
        have h2 : base + 1 + k - (base + 1) = k := by omega
        simp [h1, h2, hx]; omega
      · have : ¬ base + 1 ≤ x := by omega
        simp [hx, hb, this]

theorem offsets_cellsFrom (bytes : List Byte) (base : Nat) :
    (cellsFrom base bytes).map Prod.fst = List.range' base bytes.length := by
  induction bytes generalizing base with
  | nil => rfl
  | cons b bytes ih => simp [cellsFrom, ih, List.range'_succ]

theorem risesFrom_of_offsets {m : Memory} {base n : Nat} (lo : Nat) (hlo : lo ≤ base)
    (h : m.map Prod.fst = List.range' base n) : Memory.risesFrom lo m = true := by
  induction m generalizing lo base n with
  | nil => rfl
  | cons c m ih =>
    cases n with
    | zero => simp at h
    | succ n =>
      simp only [List.map_cons, List.range'_succ, List.cons.injEq] at h
      simp only [Memory.risesFrom, Bool.and_eq_true, decide_eq_true_eq]
      exact ⟨by omega, ih (c.1 + 1) (by omega) h.2⟩

/-- LOAD leaves the canonical form. -/
theorem wf_cellsFrom (bytes : List Byte) : Memory.wf (cellsFrom 0 bytes) = true :=
  risesFrom_of_offsets 0 (Nat.le_refl 0) (offsets_cellsFrom bytes 0)

theorem wf_writeBuf (bytes : List Byte) (s : State) : Memory.wf (writeBuf bytes s).buf = true :=
  wf_cellsFrom bytes

theorem wf_reset : Memory.wf State.reset.buf = true := rfl

/-- A coherent buffer is in canonical form. -/
theorem BufferCoherent.wf {s : State} (h : BufferCoherent s) : Memory.wf s.buf = true :=
  risesFrom_of_offsets 0 (Nat.le_refl 0) (by rw [h.1, List.range_eq_range'])

theorem read_isSome_iff (m : Memory) (x : Nat) :
    (Memory.read m x).isSome = true ↔ x ∈ m.map Prod.fst := by
  induction m with
  | nil => simp
  | cons c m ih =>
    simp only [Memory.read, List.map_cons, List.mem_cons]
    by_cases hx : x = c.1 <;> simp [hx, ih]

/-- Every offset below LEN of a coherent buffer holds a byte. -/
theorem BufferCoherent.content {s : State} (h : BufferCoherent s) {off : Nat} (ho : off < s.len) :
    ∃ b, bufRead s off = some b := by
  have : (Memory.read s.buf off).isSome = true := by
    rw [read_isSome_iff, h.1]; exact List.mem_range.mpr ho
  rw [bufRead, if_pos ho]
  exact Option.isSome_iff_exists.mp this

theorem bufRead_of_ge {s : State} {off : Nat} (h : s.len ≤ off) : bufRead s off = none :=
  if_neg (by omega)

theorem BufferCoherent.content16 {s : State} (h : BufferCoherent s) (ord : ByteOrder) {off : Nat}
    (ho : off + 2 ≤ s.len) :
    ∃ b0 b1, bufRead s off = some b0 ∧ bufRead s (off + 1) = some b1 ∧
      read16 s ord off = some (join16 ord b0 b1) := by
  obtain ⟨b0, h0⟩ := h.content (off := off) (by omega)
  obtain ⟨b1, h1⟩ := h.content (off := off + 1) (by omega)
  exact ⟨b0, b1, h0, h1, by simp [read16, h0, h1]⟩

/-- A read depends on LEN and BUF alone. -/
theorem bufRead_congr {s t : State} (hb : t.buf = s.buf) (hl : t.len = s.len) (off : Nat) :
    bufRead t off = bufRead s off := by
  simp [bufRead, hb, hl]

/-- What a read after a LOAD gives (R53). -/
theorem bufRead_writeBuf (bytes : List Byte) (s : State) (off : Nat) :
    bufRead (writeBuf bytes s) off = bytes[off]? := by
  simp only [bufRead, writeBuf_len, writeBuf_buf, read_cellsFrom]
  by_cases h : off < bytes.length
  · simp [h]
  · simp [h]

theorem bufferCoherent_writeBuf {bytes : List Byte} {s : State}
    (h : bytes.length ≤ s.params.bufCap) : BufferCoherent (writeBuf bytes s) :=
  ⟨by simp [offsets_cellsFrom, List.range_eq_range'], by simpa using h⟩

theorem bufferCoherent_resetWith (p : Params) : BufferCoherent (State.resetWith p) :=
  ⟨rfl, Nat.zero_le _⟩

end Sys2Proof.Machine
end

