-- ==== Sys2Proof/Laws/Numbers.lean ====
section
/-! SUPPORT. Laws of the number conversions (R9), of joined bytes (R57) and of the bit test (R106). -/

namespace Sys2Proof.Machine

theorem uint_lt (n : Nat) (v : Int) : uint n v < 2 ^ n := by
  have h2 : (0 : Int) < ((2 ^ n : Nat) : Int) := by exact_mod_cast Nat.two_pow_pos n
  have h1 := Int.emod_lt_of_pos v h2
  have h0 := Int.emod_nonneg v (Int.ne_of_gt h2)
  unfold uint
  omega

theorem sext_lt (n : Nat) (v : Int) : sext n v < 2 ^ n := uint_lt n v

theorem zext_lt (n u : Nat) : zext n u < 2 ^ n := Nat.mod_lt u (Nat.two_pow_pos n)

theorem zext_of_lt {n u : Nat} (h : u < 2 ^ n) : zext n u = u := Nat.mod_eq_of_lt h

/-- Reading back a sign-extended pattern gives the number, where the width holds it. -/
theorem sint_sext {n : Nat} {v : Int} (hn : 0 < n) (lo : -((2 ^ (n - 1) : Nat) : Int) ≤ v)
    (hi : v < ((2 ^ (n - 1) : Nat) : Int)) : sint n (sext n v) = v := by
  obtain ⟨m, rfl⟩ : ∃ m, n = m + 1 := ⟨n - 1, by omega⟩
  have hp : (2 ^ (m + 1) : Nat) = 2 * 2 ^ m := by rw [Nat.pow_succ]; omega
  unfold sint sext uint
  simp only [Nat.add_sub_cancel] at *
  rw [hp]
  generalize (2 ^ m : Nat) = k at *
  by_cases h : 0 ≤ v
  · have : v % ((2 * k : Nat) : Int) = v := Int.emod_eq_of_lt h (by push_cast; omega)
    rw [this, if_neg (by omega)]
    omega
  · have : v % ((2 * k : Nat) : Int) = v + (2 * k : Nat) := by
      rw [← Int.add_emod_right]
      exact Int.emod_eq_of_lt (by push_cast; omega) (by push_cast; omega)
    rw [this, if_pos (by omega)]
    push_cast
    omega

theorem join16_lt (ord : ByteOrder) (b0 b1 : Byte) : join16 ord b0 b1 < 65536 := by
  have h0 := b0.isLt
  have h1 := b1.isLt
  cases ord <;> simp only [join16] <;> omega

theorem sint16_bounds {u : Nat} (h : u < 65536) : -32768 ≤ sint 16 u ∧ sint 16 u ≤ 32767 := by
  unfold sint
  norm_num
  split <;> omega

theorem sint8_bounds {u : Nat} (h : u < 256) : -128 ≤ sint 8 u ∧ sint 8 u ≤ 127 := by
  unfold sint
  norm_num
  split <;> omega

/-- A flag is the bit under its mask. -/
theorem bitTest_eq (b : Byte) (bit : Fin 8) : bitTest b bit = b.getLsbD bit := by
  revert b
  fin_cases bit <;> decide

end Sys2Proof.Machine
end

