-- ==== Sys2Proof/Laws/Ops.lean ====
section
/-! SUPPORT. What each shared operation can do, said once: the checks of an operation, what a run of it leaves, and what one
step is. -/

namespace Sys2Proof.Machine

theorem whenAccepted_faulted {s : State} {k : Result} (h : s.status.faulted = true) :
    whenAccepted s k = notAccepted s := if_pos h

theorem whenAccepted_clear {s : State} {k : Result} (h : s.status.faulted = false) :
    whenAccepted s k = k := if_neg (by simp [h])

@[simp] theorem whenWritten_true (s : State) (k : Result) : whenWritten true s k = k := rfl

@[simp] theorem whenWritten_false (s : State) (k : Result) :
    whenWritten false s k = raiseFault .unwrittenArg s := rfl

theorem whenInBounds_in {s : State} {k : Result} {off w : Nat} (h : off + w ≤ s.len) :
    whenInBounds off w s k = k := if_pos h

theorem whenInBounds_out {s : State} {k : Result} {off w : Nat} (h : ¬ off + w ≤ s.len) :
    whenInBounds off w s k = raiseFault .bounds s := if_neg h

@[simp] theorem withContent_some {α : Type} (a : α) (k : α → Result) : withContent (some a) k = k a := rfl

@[simp] theorem withContent_none {α : Type} (k : α → Result) :
    withContent none k = .fault .noContent := rfl

/-- While FAULTED no operation is accepted (R202). -/
theorem exec_faulted {s : State} (i : Instr) (h : s.status.faulted = true) :
    exec i s = notAccepted s := by
  cases i <;> exact whenAccepted_faulted h

/-- While FAULTED no word is accepted (R202). -/
theorem perform_issue_faulted {s : State} (w : Word) (h : s.status.faulted = true) :
    perform (.issue w) s = notAccepted s := by
  simp only [perform]
  split
  · exact exec_faulted _ h
  · exact whenAccepted_faulted h

/-- A legal word runs its operation. -/
theorem perform_issue_ok {s : State} {w : Word} {i : Instr} (h : decodeWord w = .ok i) :
    perform (.issue w) s = exec i s := by
  simp [perform, h]

/-- An illegal word faults (R77). -/
theorem perform_issue_error {s : State} {w : Word} {e : IllegalWord} (h : decodeWord w = .error e) :
    perform (.issue w) s = illegalWord s := by
  simp [perform, h]

/-- The writes of an operation that returns Ok, LAST and the reply apart. -/
inductive Effect : Instr → State → State → Prop where
  | enc16be {s : State} (h : s.status.av0 = true) :
      Effect .enc16be s (writeOut (s.arg0.extractLsb' 8 8) (s.arg0.extractLsb' 0 8) s)
  | dec16 {s : State} {ord : ByteOrder} {off u : Nat} (hl : off + 2 ≤ s.len)
      (h : read16 s ord off = some u) :
      Effect (.dec16 ord off) s (writeRes (sext s.params.resW (sint 16 u)) s)
  | dec16u {s : State} {ord : ByteOrder} {off u : Nat} (hl : off + 2 ≤ s.len)
      (h : read16 s ord off = some u) :
      Effect (.dec16u ord off) s (writeRes (zext s.params.resW u) s)
  | dec8 {s : State} {off : Nat} {b : Byte} (hl : off + 1 ≤ s.len) (h : bufRead s off = some b) :
      Effect (.dec8 off) s (writeRes (sext s.params.resW (sint 8 b.toNat)) s)
  | dec8u {s : State} {off : Nat} {b : Byte} (hl : off + 1 ≤ s.len) (h : bufRead s off = some b) :
      Effect (.dec8u off) s (writeRes (zext s.params.resW b.toNat) s)
  | bitx {s : State} {off bit : Nat} {b : Byte} (hl : off + 1 ≤ s.len) (h : bufRead s off = some b) :
      Effect (.bitx off bit) s
        (writeRes (zext s.params.resW (if bitTest b bit then 1 else 0)) s)
  | decode {s : State} {rec : Record} {l r : BitVec 16} (hl : s.len = s.params.pktLen)
      (h : fieldsOf s s.params.fieldTable = some rec)
      (h_l : recordCount rec .encoderCounts_left = some l)
      (h_r : recordCount rec .encoderCounts_right = some r) :
      Effect .decode s (trackerUpdate l r (writeSens rec s))
  | trkupd {s : State} (h0 : s.status.av0 = true) (h1 : s.status.av1 = true) :
      Effect .trkupd s (trackerUpdate s.arg0 s.arg1 s)

/-- How an operation can end in a next state. -/
inductive Ends (i : Instr) (s : State) : State → Prop where
  | notAccepted (h : s.status.faulted = true) : Ends i s (reply (.outcome .notAccepted) s)
  | fault (h : s.status.faulted = false) (c : FaultCause) :
      Ends i s (conclude (.fault c) (setFault c s.status) s)
  | malformed (h : s.status.faulted = false) (hi : i = .decode) (hl : s.len ≠ s.params.pktLen) :
      Ends i s (conclude .errMalformed (setLast .errMalformed s.status) s)
  | ok (h : s.status.faulted = false) {s' : State} (he : Effect i s s') :
      Ends i s (conclude .ok (setLast .ok s'.status) s')

theorem ends_whenInBounds {i : Instr} {s t : State} {off w : Nat} {k : Result}
    (hf : s.status.faulted = false) (hk : off + w ≤ s.len → k = .next t → Ends i s t)
    (h : whenInBounds off w s k = .next t) : Ends i s t := by
  by_cases hb : off + w ≤ s.len
  · exact hk hb (by rwa [whenInBounds_in hb] at h)
  · rw [whenInBounds_out hb] at h
    cases h
    exact .fault hf .bounds

theorem ends_withContent {i : Instr} {s t : State} {α : Type} {x : Option α} {k : α → Result}
    (hk : ∀ a, x = some a → k a = .next t → Ends i s t) (h : withContent x k = .next t) :
    Ends i s t := by
  cases x with
  | none => cases h
  | some a => exact hk a rfl h

theorem ends_whenWritten {i : Instr} {s t : State} {b : Bool} {k : Result}
    (hf : s.status.faulted = false) (hk : b = true → k = .next t → Ends i s t)
    (h : whenWritten b s k = .next t) : Ends i s t := by
  cases b with
  | true => exact hk rfl h
  | false => cases h; exact .fault hf .unwrittenArg

theorem ends_whenAccepted {i : Instr} {s t : State} {k : Result}
    (hk : s.status.faulted = false → k = .next t → Ends i s t) (h : whenAccepted s k = .next t) :
    Ends i s t := by
  by_cases hf : s.status.faulted = true
  · rw [whenAccepted_faulted hf] at h
    cases h
    exact .notAccepted hf
  · have hf' : s.status.faulted = false := by simpa using hf
    exact hk hf' (by rwa [whenAccepted_clear hf'] at h)

/-- Everything an operation can do: it is not accepted, or faults, or finds a malformed packet, or has its own effect. -/
theorem exec_ends {i : Instr} {s t : State} (h : exec i s = .next t) : Ends i s t := by
  cases i with
  | enc16be =>
    exact ends_whenAccepted (fun hf h => ends_whenWritten hf (fun hw h => by
      cases h; exact .ok hf (.enc16be hw)) h) h
  | dec16 ord off =>
    exact ends_whenAccepted (fun hf h => ends_whenInBounds hf (fun hb h =>
      ends_withContent (fun u hu h => by cases h; exact .ok hf (.dec16 hb hu)) h) h) h
  | dec16u ord off =>
    exact ends_whenAccepted (fun hf h => ends_whenInBounds hf (fun hb h =>
      ends_withContent (fun u hu h => by cases h; exact .ok hf (.dec16u hb hu)) h) h) h
  | dec8 off =>
    exact ends_whenAccepted (fun hf h => ends_whenInBounds hf (fun hb h =>
      ends_withContent (fun b hu h => by cases h; exact .ok hf (.dec8 hb hu)) h) h) h
  | dec8u off =>
    exact ends_whenAccepted (fun hf h => ends_whenInBounds hf (fun hb h =>
      ends_withContent (fun b hu h => by cases h; exact .ok hf (.dec8u hb hu)) h) h) h
  | bitx off bit =>
    exact ends_whenAccepted (fun hf h => ends_whenInBounds hf (fun hb h =>
      ends_withContent (fun b hu h => by cases h; exact .ok hf (.bitx hb hu)) h) h) h
  | decode =>
    refine ends_whenAccepted (fun hf h => ?_) h
    by_cases hl : s.len = s.params.pktLen
    · rw [if_pos hl] at h
      refine ends_withContent (fun rec hr h => ?_) h
      unfold acceptPacket at h
      split at h
      · next l r h_l h_r => cases h; exact .ok hf (.decode hl hr h_l h_r)
      · cases h
    · rw [if_neg hl] at h
      cases h
      exact .malformed hf rfl hl
  | trkupd =>
    refine ends_whenAccepted (fun hf h => ends_whenWritten hf (fun hw h => ?_) h) h
    cases h
    simp only [Bool.and_eq_true] at hw
    exact .ok hf (.trkupd hw.1 hw.2)

/-- What one step is: idle with nothing pending, or the host's next action, allowed to its agent and performed. -/
theorem step_next {s t : State} (h : step s = .next t) :
    (s.pending = [] ∧ t = s) ∨
    ∃ e rest, s.pending = e :: rest ∧ eventAllowed e = true ∧
      perform e.action { s with pending := rest } = .next t := by
  unfold step fetchAction at h
  cases hp : s.pending with
  | nil => simp only [hp] at h; cases h; exact .inl ⟨rfl, rfl⟩
  | cons e rest =>
    simp only [hp] at h
    cases ha : eventAllowed e with
    | true => simp only [ha, if_true] at h; exact .inr ⟨e, rest, rfl, ha, h⟩
    | false => simp [ha] at h

/-- How performing a host action can end in a next state. -/
theorem perform_next {a : HostAction} {s t : State} (h : perform a s = .next t) :
    (∃ w i, a = .issue w ∧ decodeWord w = .ok i ∧ exec i s = .next t) ∨
    (∃ w e, a = .issue w ∧ decodeWord w = .error e ∧ illegalWord s = .next t) ∨
    (∃ bytes, a = .load bytes ∧ bytes.length ≤ s.params.bufCap ∧ t = writeBuf bytes s) ∨
    (∃ arg v, a = .wr arg v ∧ argInRange v = true ∧ t = writeArg arg (BitVec.ofNat 16 (uint 16 v)) s) ∨
    (∃ n, a = .rd n ∧ t = reply (.value n (hostRead s n)) s) ∨
    (a = .reset ∧ t = resetBlock s) := by
  cases a with
  | issue w =>
    simp only [perform] at h
    cases hd : decodeWord w with
    | ok i => rw [hd] at h; exact .inl ⟨w, i, rfl, hd, h⟩
    | error e => rw [hd] at h; exact .inr (.inl ⟨w, e, rfl, hd, h⟩)
  | load bytes =>
    simp only [perform, hostLoad] at h
    by_cases hl : bytes.length ≤ s.params.bufCap
    · rw [if_pos hl] at h; cases h; exact .inr (.inr (.inl ⟨bytes, rfl, hl, rfl⟩))
    · rw [if_neg hl] at h; cases h
  | wr arg v =>
    simp only [perform, hostWrite] at h
    by_cases hl : argInRange v = true
    · rw [if_pos hl] at h; cases h; exact .inr (.inr (.inr (.inl ⟨arg, v, rfl, hl, rfl⟩)))
    · rw [if_neg hl] at h; cases h
  | rd n => cases h; exact .inr (.inr (.inr (.inr (.inl ⟨n, rfl, rfl⟩))))
  | reset => cases h; exact .inr (.inr (.inr (.inr (.inr ⟨rfl, rfl⟩))))

theorem illegalWord_next {s t : State} (h : illegalWord s = .next t) :
    (s.status.faulted = true ∧ t = reply (.outcome .notAccepted) s) ∨
    (s.status.faulted = false ∧ t = conclude (.fault .illegalOp) (setFault .illegalOp s.status) s) := by
  unfold illegalWord at h
  by_cases hf : s.status.faulted = true
  · rw [whenAccepted_faulted hf] at h; cases h; exact .inl ⟨hf, rfl⟩
  · have hf' : s.status.faulted = false := by simpa using hf
    rw [whenAccepted_clear hf'] at h; cases h; exact .inr ⟨hf', rfl⟩

end Sys2Proof.Machine
end

