-- ==== Sys2Proof/Laws/Params.lean ====
section
/-! SUPPORT. The default parameters meet their constraints, and what the constraints give. -/

namespace Sys2Proof.Machine

/-- The defaults of R6 and R140 meet R7 and R133. -/
theorem defaultParams_ok : paramsOk defaultParams = true := by decide +kernel

theorem defaultFieldTable_length : defaultFieldTable.length = 67 := rfl

/-- The constraints of R7, one by one. -/
theorem paramsOk_iff (p : Params) : paramsOk p = true ↔
    p.pktLen ≤ p.bufCap ∧ 0 < p.wrapThresh ∧ p.wrapThresh ≤ 2 ^ p.cntW - 1 ∧ p.wrapK ≤ 2 ^ p.cntW ∧
      18 ≤ p.resW ∧ p.cntW + 2 ≤ p.resW ∧ fieldTableOk p = true := by
  simp [paramsOk, and_assoc]

/-- Every row of an accepted table lies inside the packet and covers no unused byte. -/
theorem row_of_fieldTableOk {p : Params} (h : fieldTableOk p = true) {r : FieldRow}
    (hr : r ∈ p.fieldTable) :
    r.off + r.kind.width ≤ p.pktLen ∧ ∀ x ∈ Config.unusedBytes, rowCovers r x = false := by
  simp only [fieldTableOk, Bool.and_eq_true, List.all_eq_true, decide_eq_true_eq] at h
  have := h.1.1.1 r hr
  exact ⟨this.1, fun x hx => by simpa using this.2 x hx⟩

theorem rowsFit_of_fieldTableOk {p : Params} (h : fieldTableOk p = true) :
    rowsFit p.fieldTable = true := by
  simp only [fieldTableOk, Bool.and_eq_true] at h
  exact h.1.1.2

theorem covers_iff (r : FieldRow) (x : Nat) : rowCovers r x = true ↔ Covers r x := by
  simp [rowCovers, Covers]

/-- Rows that share a byte overlap. -/
theorem rowsOverlap_of_covers {a b : FieldRow} {x : Nat} (ha : Covers a x) (hb : Covers b x) :
    rowsOverlap a b = true := by
  obtain ⟨_, _⟩ := ha
  obtain ⟨_, _⟩ := hb
  simp only [rowsOverlap, Bool.and_eq_true, decide_eq_true_eq]
  omega

/-- Compatible rows of different names may stand in one table (R133). -/
theorem rowsAgree_of_compatible {a b : FieldRow} (hn : a.name ≠ b.name)
    (h : rowsCompatible a b = true) : RowsAgree a b := by
  refine ⟨hn, fun x ha hb => ?_⟩
  have ho := rowsOverlap_of_covers ha hb
  unfold rowsCompatible at h
  split at h
  · rename_i m n hm hn'
    exact ⟨m, n, hm, hn', by simpa [ho] using h⟩
  · simp [ho] at h

theorem pairwise_of_rowsFit {rows : List FieldRow} (h : rowsFit rows = true) :
    rows.Pairwise RowsAgree := by
  induction rows with
  | nil => exact .nil
  | cons a rows ih =>
    simp only [rowsFit, rowFits, Bool.and_eq_true, List.all_eq_true, decide_eq_true_eq] at h
    exact .cons (fun b hb => rowsAgree_of_compatible (h.1 b hb).2 (h.1 b hb).1) (ih h.2)

/-- An accepted table has the two encoder counts as 16-bit unsigned rows. -/
theorem counts_of_fieldTableOk {p : Params} (h : fieldTableOk p = true) :
    (∃ r ∈ p.fieldTable, r.name = .encoderCounts_left ∧ r.kind = .u16) ∧
    (∃ r ∈ p.fieldTable, r.name = .encoderCounts_right ∧ r.kind = .u16) := by
  simp only [fieldTableOk, Bool.and_eq_true, List.any_eq_true, decide_eq_true_eq] at h
  exact ⟨h.1.2, h.2⟩

end Sys2Proof.Machine
end

