-- ==== Sys2Proof/Laws/Packet.lean ====
section
/-! SUPPORT. What the field table gives DECODE: every row has a value, the record is typed by the table, each field of it is
its row's value, and a value depends on its row's bytes alone. -/

namespace Sys2Proof.Machine

theorem read16_some {s : State} {ord : ByteOrder} {off : Nat} {b0 b1 : Byte}
    (h0 : bufRead s off = some b0) (h1 : bufRead s (off + 1) = some b1) :
    read16 s ord off = some (join16 ord b0 b1) := by simp [read16, h0, h1]

theorem read16_eq_some {s : State} {ord : ByteOrder} {off u : Nat} (h : read16 s ord off = some u) :
    ∃ b0 b1, bufRead s off = some b0 ∧ bufRead s (off + 1) = some b1 ∧ u = join16 ord b0 b1 := by
  unfold read16 at h
  split at h
  · next b0 b1 h0 h1 => exact ⟨b0, b1, h0, h1, by simpa using h.symm⟩
  · cases h

/-- A row inside LEN of a coherent buffer has a value. -/
theorem fieldValue_exists {s : State} (hc : BufferCoherent s) {r : FieldRow}
    (h : r.off + r.kind.width ≤ s.len) : ∃ v, fieldValue s r = some v := by
  unfold fieldValue
  cases hk : r.kind with
  | flag bit =>
    obtain ⟨b, hb⟩ := hc.content (off := r.off) (by simp [hk, FieldKind.width] at h; omega)
    simp [hb]
  | u8 =>
    obtain ⟨b, hb⟩ := hc.content (off := r.off) (by simp [hk, FieldKind.width] at h; omega)
    simp [hb]
  | i8 =>
    obtain ⟨b, hb⟩ := hc.content (off := r.off) (by simp [hk, FieldKind.width] at h; omega)
    simp [hb]
  | u16 =>
    obtain ⟨_, _, _, _, hu⟩ := hc.content16 s.params.pktOrd (off := r.off)
      (by simpa [hk, FieldKind.width] using h)
    simp [hu]
  | i16 =>
    obtain ⟨_, _, _, _, hu⟩ := hc.content16 s.params.pktOrd (off := r.off)
      (by simpa [hk, FieldKind.width] using h)
    simp [hu]

theorem fieldsOf_exists {s : State} (hc : BufferCoherent s) {rows : List FieldRow}
    (h : ∀ r ∈ rows, r.off + r.kind.width ≤ s.len) : ∃ rec, fieldsOf s rows = some rec := by
  induction rows with
  | nil => exact ⟨[], rfl⟩
  | cons r rows ih =>
    obtain ⟨v, hv⟩ := fieldValue_exists hc (h r (by simp))
    obtain ⟨rec, hr⟩ := ih fun x hx => h x (by simp [hx])
    exact ⟨(r.name, v) :: rec, by simp [fieldsOf, hv, hr]⟩

/-- A record of a table's rows, taken apart. -/
theorem fieldsOf_cons {s : State} {r : FieldRow} {rows : List FieldRow} {rec : Record}
    (h : fieldsOf s (r :: rows) = some rec) :
    ∃ v rest, fieldValue s r = some v ∧ fieldsOf s rows = some rest ∧ rec = (r.name, v) :: rest := by
  simp only [fieldsOf] at h
  split at h
  · next v rest hv hr => exact ⟨v, rest, hv, hr, by simpa using h.symm⟩
  · cases h

theorem fieldValue_kind {s : State} {r : FieldRow} {v : FieldVal} (h : fieldValue s r = some v) :
    kindMatches r.kind v = true := by
  unfold fieldValue at h
  cases hk : r.kind <;> simp only [hk, Option.map_eq_some_iff] at h <;>
    obtain ⟨_, _, rfl⟩ := h <;> rfl

/-- The record of a table has the table's names and types. -/
theorem recordTyped_fieldsOf {s : State} {rows : List FieldRow} {rec : Record}
    (h : fieldsOf s rows = some rec) : recordTyped rows rec = true := by
  induction rows generalizing rec with
  | nil => cases h; rfl
  | cons r rows ih =>
    obtain ⟨v, rest, hv, hr, rfl⟩ := fieldsOf_cons h
    simp [recordTyped, fieldValue_kind hv, ih hr]

theorem name_ne_of_rowFits {a : FieldRow} {rows : List FieldRow} (h : rowFits a rows = true)
    {r : FieldRow} (hr : r ∈ rows) : r.name ≠ a.name := by
  simp only [rowFits, List.all_eq_true, Bool.and_eq_true, decide_eq_true_eq] at h
  exact fun e => (h r hr).2 e.symm

/-- Each field of the record is its row's value. -/
theorem recordField_fieldsOf {s : State} {rows : List FieldRow} {rec : Record}
    (hf : rowsFit rows = true) (h : fieldsOf s rows = some rec) {r : FieldRow} (hr : r ∈ rows) :
    recordField rec r.name = fieldValue s r := by
  induction rows generalizing rec with
  | nil => cases hr
  | cons a rows ih =>
    simp only [rowsFit, Bool.and_eq_true] at hf
    obtain ⟨v, rest, hv, hrest, rfl⟩ := fieldsOf_cons h
    rcases List.mem_cons.mp hr with rfl | hr
    · simp [recordField, hv]
    · simp [recordField, name_ne_of_rowFits hf.1 hr, ih hf.2 hrest hr]

/-- A row's value depends on the packet's byte order and on the row's own bytes alone. -/
theorem fieldValue_congr {s t : State} {r : FieldRow} (hp : t.params.pktOrd = s.params.pktOrd)
    (h : ∀ x, rowCovers r x = true → bufRead t x = bufRead s x) : fieldValue t r = fieldValue s r := by
  have h0 : bufRead t r.off = bufRead s r.off :=
    h _ (by cases hk : r.kind <;> simp [rowCovers, hk, FieldKind.width])
  unfold fieldValue
  cases hk : r.kind with
  | flag bit => simp [h0]
  | u8 => simp [h0]
  | i8 => simp [h0]
  | u16 =>
    have h1 : bufRead t (r.off + 1) = bufRead s (r.off + 1) :=
      h _ (by simp [rowCovers, hk, FieldKind.width])
    simp [read16, h0, h1, hp]
  | i16 =>
    have h1 : bufRead t (r.off + 1) = bufRead s (r.off + 1) :=
      h _ (by simp [rowCovers, hk, FieldKind.width])
    simp [read16, h0, h1, hp]

theorem fieldsOf_congr {s t : State} {rows : List FieldRow}
    (h : ∀ r ∈ rows, fieldValue t r = fieldValue s r) : fieldsOf t rows = fieldsOf s rows := by
  induction rows with
  | nil => rfl
  | cons r rows ih =>
    simp only [fieldsOf, h r (by simp), ih fun x hx => h x (by simp [hx])]

/-- The count of a 16-bit unsigned row. -/
theorem recordCount_fieldsOf {s : State} (hc : BufferCoherent s) {rows : List FieldRow} {rec : Record}
    (hf : rowsFit rows = true) (h : fieldsOf s rows = some rec) {r : FieldRow} (hr : r ∈ rows)
    (hk : r.kind = .u16) (hl : r.off + 2 ≤ s.len) :
    ∃ u, read16 s s.params.pktOrd r.off = some u ∧ recordCount rec r.name = some (BitVec.ofNat 16 u) := by
  obtain ⟨_, _, _, _, hu⟩ := hc.content16 s.params.pktOrd hl
  refine ⟨_, hu, ?_⟩
  simp [recordCount, recordField_fieldsOf hf h hr, fieldValue, hk, hu]

/-- A coherent buffer of PKT_LEN bytes, under an accepted table, decodes (R132). -/
theorem packet_decodes {s : State} (hc : BufferCoherent s) (hp : fieldTableOk s.params = true)
    (hl : s.len = s.params.pktLen) :
    ∃ rec l r, fieldsOf s s.params.fieldTable = some rec ∧
      recordCount rec .encoderCounts_left = some l ∧ recordCount rec .encoderCounts_right = some r := by
  have hin : ∀ r ∈ s.params.fieldTable, r.off + r.kind.width ≤ s.len := fun r hr => by
    rw [hl]; exact (row_of_fieldTableOk hp hr).1
  obtain ⟨rec, hrec⟩ := fieldsOf_exists hc hin
  obtain ⟨⟨a, ha, hna, hka⟩, ⟨b, hb, hnb, hkb⟩⟩ := counts_of_fieldTableOk hp
  have hfit := rowsFit_of_fieldTableOk hp
  obtain ⟨u, _, hu⟩ := recordCount_fieldsOf hc hfit hrec ha hka
    (by have := hin a ha; rwa [hka] at this)
  obtain ⟨v, _, hv⟩ := recordCount_fieldsOf hc hfit hrec hb hkb
    (by have := hin b hb; rwa [hkb] at this)
  rw [hna] at hu
  rw [hnb] at hv
  exact ⟨rec, _, _, hrec, hu, hv⟩

end Sys2Proof.Machine
end

