-- ==== Sys2Proof/Laws/PerInstr.lean ====
section
/-! SUPPORT. Statements made once per instruction. -/

namespace Sys2Proof.Laws.EncodeMatchesRow

/-- The row of the opcode map an operation belongs to (R74). -/
def rowOf : Instr → OpRow
  | .enc16be => ⟨.enc16be, 0x1000, 0xFFFF⟩
  | .dec16 _ _ => ⟨.dec16, 0x2000, 0xF700⟩
  | .dec16u _ _ => ⟨.dec16u, 0x3000, 0xF700⟩
  | .dec8 _ => ⟨.dec8, 0x4000, 0xFF00⟩
  | .dec8u _ => ⟨.dec8u, 0x5000, 0xFF00⟩
  | .bitx _ _ => ⟨.bitx, 0x6000, 0xF800⟩
  | .decode => ⟨.decode, 0x7000, 0xFFFF⟩
  | .trkupd => ⟨.trkupd, 0x8000, 0xFFFF⟩

/-- The word of a well-formed operation spells the operation's own row (R74, R79). -/
def Statement (i : Instr) : Prop := i.wellFormed = true → rowMatches (encode i) (rowOf i) = true

theorem enc16be : Statement .enc16be := fun _ => rfl

theorem dec16 (ord : ByteOrder) (off : Nat) : Statement (.dec16 ord off) := by
  intro h
  have hoff : off < 256 := by simpa [Instr.wellFormed] using h
  have key : ∀ o : Fin 256, rowMatches (encode (.dec16 .le o)) ⟨.dec16, 0x2000, 0xF700⟩ = true ∧
      rowMatches (encode (.dec16 .be o)) ⟨.dec16, 0x2000, 0xF700⟩ = true := by decide +kernel
  cases ord
  · exact (key ⟨off, hoff⟩).1
  · exact (key ⟨off, hoff⟩).2

theorem dec16u (ord : ByteOrder) (off : Nat) : Statement (.dec16u ord off) := by
  intro h
  have hoff : off < 256 := by simpa [Instr.wellFormed] using h
  have key : ∀ o : Fin 256, rowMatches (encode (.dec16u .le o)) ⟨.dec16u, 0x3000, 0xF700⟩ = true ∧
      rowMatches (encode (.dec16u .be o)) ⟨.dec16u, 0x3000, 0xF700⟩ = true := by decide +kernel
  cases ord
  · exact (key ⟨off, hoff⟩).1
  · exact (key ⟨off, hoff⟩).2

theorem dec8 (off : Nat) : Statement (.dec8 off) := by
  intro h
  have hoff : off < 256 := by simpa [Instr.wellFormed] using h
  have key : ∀ o : Fin 256, rowMatches (encode (.dec8 o)) ⟨.dec8, 0x4000, 0xFF00⟩ = true := by
    decide +kernel
  exact key ⟨off, hoff⟩

theorem dec8u (off : Nat) : Statement (.dec8u off) := by
  intro h
  have hoff : off < 256 := by simpa [Instr.wellFormed] using h
  have key : ∀ o : Fin 256, rowMatches (encode (.dec8u o)) ⟨.dec8u, 0x5000, 0xFF00⟩ = true := by
    decide +kernel
  exact key ⟨off, hoff⟩

theorem bitx (off bit : Nat) : Statement (.bitx off bit) := by
  intro h
  have h : off < 256 ∧ bit < 8 := by simpa [Instr.wellFormed] using h
  have key : ∀ b : Fin 8, ∀ o : Fin 256,
      rowMatches (encode (.bitx o b)) ⟨.bitx, 0x6000, 0xF800⟩ = true := by decide +kernel
  exact key ⟨bit, h.2⟩ ⟨off, h.1⟩

theorem decode : Statement .decode := fun _ => rfl

theorem trkupd : Statement .trkupd := fun _ => rfl

end Sys2Proof.Laws.EncodeMatchesRow
end

