-- ==== Sys2Proof/Laws/Tracker.lean ====
section
/-! SUPPORT. The counts and deltas of the tracker. -/

namespace Sys2Proof.Machine

theorem WidthsHold.prevL_lt {s : State} (h : WidthsHold s) : s.prevL < 2 ^ s.params.cntW := h.2.2.2.1

theorem WidthsHold.prevR_lt {s : State} (h : WidthsHold s) : s.prevR < 2 ^ s.params.cntW := h.2.2.2.2

theorem countOf_of_lt {p : Params} {raw : BitVec 16} (h : raw.toNat < 2 ^ p.cntW) :
    countOf p raw = raw.toNat := if_pos h

theorem countOf_lt (p : Params) (raw : BitVec 16) : countOf p raw < 2 ^ p.cntW := by
  unfold countOf
  split
  · assumption
  · exact Nat.mod_lt _ (Nat.two_pow_pos _)

/-- With counters of at least 16 bits every pattern is its own count. -/
theorem countOf_of_width {p : Params} (h : 16 ≤ p.cntW) (raw : BitVec 16) : countOf p raw = raw.toNat :=
  countOf_of_lt (Nat.lt_of_lt_of_le raw.isLt (Nat.pow_le_pow_right (by decide) h))

theorem isCount_countOf (p : Params) (raw : BitVec 16) : IsCount p raw (countOf p raw) :=
  ⟨countOf_lt p raw, countOf_of_lt⟩

/-- The three cases of R171 are what `delta` computes. -/
theorem isDelta_delta (p : Params) (raw prev : Nat) : IsDelta p raw prev (delta p raw prev) := by
  unfold IsDelta delta
  split <;> [split; skip] <;> omega

/-- A count that has not moved gives the delta 0. -/
theorem delta_self {p : Params} (h : 0 < p.wrapThresh) (x : Int) : delta p x x = 0 := by
  simp [delta, h.ne']

end Sys2Proof.Machine
end

