-- ==== Sys2Proof/Tests/Slice0.lean ====
section
/-! SUPPORT. Tests from the spec's own vectors (95_test_vectors.md), and a witness for every statement's hypotheses. -/

namespace Sys2Proof.Tests

open Sys2Proof.Machine

/-! ### Well-formedness: each check refuses an ill-formed term (R71) -/

theorem test_offset_too_large_is_ill_formed : (Instr.dec16 .le 256).wellFormed = false ∧
    (Instr.dec16u .be 256).wellFormed = false ∧ (Instr.dec8 256).wellFormed = false ∧
    (Instr.dec8u 300).wellFormed = false ∧ (Instr.bitx 256 0).wellFormed = false := by decide

theorem test_bit_too_large_is_ill_formed : (Instr.bitx 0 8).wellFormed = false := by decide

theorem test_largest_fields_are_well_formed : (Instr.bitx 255 7).wellFormed = true := by decide

/-! ### Words written out from the patterns of R75 -/

theorem test_decode_enc16be : decodeWord 0b0001000000000000 = .ok .enc16be := by decide

theorem test_decode_dec16 : decodeWord 0b0010100000000100 = .ok (.dec16 .be 4) := by decide

theorem test_decode_dec16u : decodeWord 0b0011000000110100 = .ok (.dec16u .le 52) := by decide

theorem test_decode_dec8 : decodeWord 0b0100000000010101 = .ok (.dec8 21) := by decide

theorem test_decode_dec8u : decodeWord 0b0101000001000101 = .ok (.dec8u 69) := by decide

theorem test_decode_bitx : decodeWord 0b0110011111111111 = .ok (.bitx 255 7) := by decide

theorem test_decode_decode : decodeWord 0b0111000000000000 = .ok .decode := by decide

theorem test_decode_trkupd : decodeWord 0b1000000000000000 = .ok .trkupd := by decide

/-- 95 section 2.7: the reserved OPs. -/
theorem test_reserved_ops : decodeWord 0x0000 = .error .reservedOp ∧
    decodeWord 0x9000 = .error .reservedOp ∧ decodeWord 0xF000 = .error .reservedOp := by decide

/-- 95 sections 2.1 to 2.7: the ill-formed words. -/
theorem test_must_be_zero : decodeWord 0x1001 = .error .mustBeZero ∧
    decodeWord 0x2400 = .error .mustBeZero ∧ decodeWord 0x3100 = .error .mustBeZero ∧
    decodeWord 0x4100 = .error .mustBeZero ∧ decodeWord 0x4800 = .error .mustBeZero ∧
    decodeWord 0x6800 = .error .mustBeZero ∧ decodeWord 0x7001 = .error .mustBeZero ∧
    decodeWord 0x8001 = .error .mustBeZero := by decide

/-! ### Small states -/

/-- Reset with a buffer loaded. -/
def loaded (bytes : List Byte) : State := writeBuf bytes State.reset

/-- Reset with both operands written. -/
def armed (a b : BitVec 16) : State := writeArg .arg1 b (writeArg .arg0 a State.reset)

/-- A state with given previous counters, Tracking. -/
def tracked (l r : Nat) (s : State) : State :=
  { s with prevL := l, prevR := r, status := setTracked s.status }

/-- A state that has faulted. -/
def stopped : State := { State.reset with status := setFault .bounds Status.reset }

/-- RES of an outcome, read as a signed number, with the STATUS word. -/
def resOf : Result → Option (Int × Word)
  | .next t => some (sint t.params.resW t.res, statusWord t.status)
  | _ => none

/-- DL and DR of an outcome, read as signed numbers, with the STATUS word. -/
def deltasOf : Result → Option (Int × Int × Word)
  | .next t => some (sint t.params.resW t.dl, sint t.params.resW t.dr, statusWord t.status)
  | _ => none

/-- OUT0 and OUT1 of an outcome, with the STATUS word. -/
def outOf : Result → Option (Byte × Byte × Word)
  | .next t => some (t.out0, t.out1, statusWord t.status)
  | _ => none

/-- A field of SENS after an outcome, as a number. -/
def fieldAfter (x : FieldName) : Result → Option Int
  | .next t => (recordField t.sens x).map fieldNum
  | _ => none

/-- Buffer X of 95 section 2.2. -/
def bufX : List Byte := [0x38, 0xFF, 0x00, 0x80, 0xFF, 0x7F, 0xE8, 0xFD, 0xFF, 0xFF, 0x01]

/-- Packet A of 95 section 2.5. -/
def packetA : List Byte :=
  [0x14, 0x01, 0x00, 0x01, 0x00, 0x01, 0x00, 0x0A, 0x05, 0xEE, 0xA1, 0x85, 0x38, 0xFF, 0x5A, 0x00]
  ++ [0x02, 0x98, 0x3A, 0x50, 0xFB, 0xE7, 0xC4, 0x09, 0x88, 0x0A, 0xFF, 0x03, 0xD0, 0x07, 0x01, 0x00]
  ++ [0x00, 0x01, 0xFF, 0xFF, 0xDE, 0xAD, 0xBE, 0x02, 0x03, 0x04, 0x01, 0x00, 0x0C, 0xFE, 0x00, 0x80]
  ++ [0x2C, 0x01, 0xD4, 0xFE, 0xE8, 0xFD, 0xF4, 0x01, 0xC5, 0x64, 0x00, 0x34, 0x12, 0x00, 0x00, 0xFF]
  ++ [0x0F, 0x01, 0x00, 0x00, 0x01, 0xA2, 0xA3, 0x9C, 0xFF, 0x64, 0x00, 0x00, 0x80, 0xFF, 0x7F, 0x01]

/-- The block with packet A loaded and PKT_ORD = BE. -/
def loadedBE : State :=
  writeBuf packetA (State.resetWith { defaultParams with pktOrd := .be })

/-! ### One step each, from the vectors of 95_test_vectors.md -/

/-- 95 section 2.1. -/
theorem test_enc16be : outOf (exec .enc16be (writeArg .arg0 0xFF38 State.reset)) =
    some (0xFF, 0x38, 0x0C01) := by decide

/-- 95 section 2.1: no written ARG0. -/
theorem test_enc16be_unwritten : outOf (exec .enc16be State.reset) = some (0, 0, 0x002B) := by decide

/-- 95 section 2.2: the same bytes in both orders. -/
theorem test_dec16 : resOf (exec (.dec16 .le 0) (loaded bufX)) = some (-200, 0x0201) ∧
    resOf (exec (.dec16 .be 0) (loaded bufX)) = some (14591, 0x0201) := by decide

/-- 95 section 2.2: off = LEN - 1 is out of bounds. -/
theorem test_dec16_bounds : resOf (exec (.dec16 .le 10) (loaded bufX)) = some (0, 0x002F) := by decide

/-- 95 section 2.2: no sign extension. -/
theorem test_dec16u : resOf (exec (.dec16u .le 0) (loaded bufX)) = some (65336, 0x0201) ∧
    resOf (exec (.dec16u .be 6) (loaded bufX)) = some (59645, 0x0201) := by decide

/-- 95 section 2.3. -/
theorem test_dec8 : resOf (exec (.dec8 1) (loaded [0x00, 0x80])) = some (-128, 0x0201) ∧
    resOf (exec (.dec8 2) (loaded [0x00, 0x80])) = some (0, 0x002F) := by decide

/-- 95 section 2.3. -/
theorem test_dec8u : resOf (exec (.dec8u 1) (loaded [0x00, 0xFF])) = some (255, 0x0201) := by decide

/-- 95 section 2.4: a flag is never the mask value. -/
theorem test_bitx : resOf (exec (.bitx 0 2) (loaded [0x85])) = some (1, 0x0201) ∧
    resOf (exec (.bitx 0 6) (loaded [0x80])) = some (0, 0x0201) := by decide

/-- 95 section 2.5: the tracker and STATUS after packet A, in both byte orders. -/
theorem test_decode_tracker : deltasOf (exec .decode (loaded packetA)) = some (-535, 500, 0x01C1) ∧
    deltasOf (exec .decode loadedBE) = some (59645, -3070, 0x01C1) := by decide +kernel

/-- 95 section 2.5: some fields of packet A. -/
theorem test_decode_fields :
    fieldAfter .travel_distance (exec .decode (loaded packetA)) = some (-200) ∧
    fieldAfter .battery_temperature (exec .decode (loaded packetA)) = some (-25) ∧
    fieldAfter .wall_signal (exec .decode (loaded packetA)) = some 1023 ∧
    fieldAfter .bumpAndWheeldrop_wheeldropRight (exec .decode (loaded packetA)) = some 1 ∧
    fieldAfter .infraredOpcodes_right (exec .decode (loaded packetA)) = some 163 ∧
    fieldAfter .stasis (exec .decode (loaded packetA)) = some 1 ∧
    fieldAfter .requestedVelocityAndRadius_radius (exec .decode loadedBE) = some 128 := by
  decide +kernel

/-- V-MAL: 79 bytes. -/
theorem test_decode_malformed :
    deltasOf (exec .decode (loaded (packetA.take 79))) = some (0, 0, 0x0002) := by decide +kernel

/-- 95 section 2.6: 65000 to 500, and the first update against zero. -/
theorem test_trkupd : deltasOf (exec .trkupd (tracked 500 65000 (armed 65000#16 500#16))) =
    some (-1035, 1035, 0x1941) := by decide

/-- 95 section 2.6: only ARG0 written. -/
theorem test_trkupd_unwritten : deltasOf (exec .trkupd (writeArg .arg0 5 State.reset)) =
    some (0, 0, 0x082B) := by decide

/-- P5: the all-zero word, through a step. -/
theorem test_zero_word_faults : resOf (step (State.reset.withFetchWord 16 0)) = some (0, 0x0027) := by
  decide

/-- 92 D32: a faulted block takes LOAD and WR, and no word. -/
theorem test_faulted_block : resOf (step (stopped.withFetchWord 16 0x7000)) = some (0, 0x002F) ∧
    resOf (perform (.wr .arg0 1) stopped) = some (0, 0x082F) := by decide

/-- R81, R140: the macro FLAG of a bump flag is `BITX 0, 1`. -/
theorem test_flag_macro : flagActions defaultParams .bumpAndWheeldrop_bumpLeft =
    some [.issue 0x6100] ∧
    flagActions { defaultParams with fieldTable := [⟨.stasis, 256, .flag 0⟩] } .stasis = none := by
  decide +kernel

/-- R7: a table with a row over byte 36, or a width below 18, is refused. -/
theorem test_bad_parameters :
    paramsOk { defaultParams with fieldTable := ⟨.stasis, 36, .u8⟩ :: defaultFieldTable } = false ∧
    paramsOk { defaultParams with resW := 17 } = false := by decide +kernel

/-! ### A witness for the hypotheses of every statement that has any -/

/-- Whether an outcome is a next state. -/
def isNext : Result → Bool
  | .next _ => true
  | _ => false

theorem exists_next {r : Result} (h : isNext r = true) : ∃ t, r = .next t := by
  cases r with
  | next t => exact ⟨t, rfl⟩
  | fault _ => cases h
  | refused _ => cases h

/-- Packet A loaded, both operands written, and four actions that exist pending. -/
def running : State :=
  { writeBuf packetA (armed 65000#16 500#16) with
    pending := [⟨.issuer, .issue 0x8000⟩, ⟨.other 3, .rd .dl⟩, ⟨.issuer, .wr .arg0 (-32768)⟩,
      ⟨.issuer, .load packetA⟩] }

/-- A state with one action pending. -/
def awaiting (e : HostEvent) (s : State) : State := { s with pending := [e] }

theorem coherent_loaded (bytes : List Byte) (h : bytes.length ≤ 256) : BufferCoherent (loaded bytes) :=
  bufferCoherent_writeBuf h

theorem coherent_loadedBE : BufferCoherent loadedBE := bufferCoherent_writeBuf (by decide)

theorem running_inv : Inv running where
  params := defaultParams_ok
  buffer := bufferCoherent_writeBuf (s := armed 65000#16 500#16) (bytes := packetA) (by decide)
  widths := ⟨by decide, by decide, by decide, by decide, by decide⟩
  status := ⟨by decide, by decide, by decide, by decide, by decide⟩
  tracker := fun _ => ⟨rfl, rfl⟩
  deltas := fun h => absurd h (by decide)
  record := fun h => absurd h (by decide)

theorem witness_DecodeOfEncodeIsIdentity : (Instr.bitx 255 7).wellFormed = true ∧
    (Instr.dec16 .be 255).wellFormed = true := by decide

theorem witness_EncodeOfDecodeIsIdentity : decodeWord 0x67FF = .ok (.bitx 255 7) ∧
    decodeWord 0x3800 = .ok (.dec16u .be 0) := by decide

theorem witness_OpcodeMapDecodes : (0x1000#16 &&& 0xFFFF = 0x1000) ∧ (0x28FF#16 &&& 0xF700 = 0x2000) ∧
    (0x3800#16 &&& 0xF700 = 0x3000) ∧ (0x40FF#16 &&& 0xFF00 = 0x4000) ∧
    (0x5000#16 &&& 0xFF00 = 0x5000) ∧ (0x67FF#16 &&& 0xF800 = 0x6000) ∧
    (0x7000#16 &&& 0xFFFF = 0x7000) ∧ (0x8000#16 &&& 0xFFFF = 0x8000) ∧
    rowMatches 0x8000 ⟨.trkupd, 0x8000, 0xFFFF⟩ = true := by decide

theorem witness_ReservedOpWordsAreIllegal : (0x0FFF#16).toNat / 4096 = 0 ∧
    9 ≤ (0x9000#16).toNat / 4096 ∧ 9 ≤ (0xFFFF#16).toNat / 4096 := by decide

theorem witness_MustBeZeroBitsAreIllegal : 1 ≤ (0x1001#16).toNat / 4096 ∧
    (0x1001#16).toNat / 4096 ≤ 8 ∧ wordIllegal 0x1001 = true ∧
    (0x8FFF#16).toNat / 4096 ≤ 8 ∧ wordIllegal 0x8FFF = true ∧ wordIllegal 0x8000 = false := by decide

theorem witness_IssuedIllegalWordFaults : wordIllegal 0x0000 = true ∧ wordIllegal 0xF000 = true ∧
    State.reset.status.faulted = false ∧ wordIllegal 0x1000 = false := by decide

theorem witness_EncoderResult : (armed 0xFF38#16 0).status.faulted = false ∧
    (armed 0xFF38#16 0).status.av0 = true ∧ State.reset.status.faulted = false ∧
    State.reset.status.av0 = false := by decide

/-- Offset 9 is the last in bounds of the 11 bytes of buffer X, offset 10 the first out of bounds. -/
theorem witness_SignedHalfResult : (loaded bufX).status.faulted = false ∧
    9 + 2 ≤ (loaded bufX).len ∧ Memory.read (loaded bufX).buf 9 = some 0xFF ∧
    Memory.read (loaded bufX).buf (9 + 1) = some 0x01 ∧ (loaded bufX).len < 10 + 2 := by decide

theorem witness_UnsignedHalfResult : (loaded bufX).status.faulted = false ∧
    0 + 2 ≤ (loaded bufX).len ∧ Memory.read (loaded bufX).buf 0 = some 0x38 ∧
    Memory.read (loaded bufX).buf (0 + 1) = some 0xFF ∧ (loaded bufX).len < 255 + 2 := by decide

theorem witness_SignedByteResult : (loaded bufX).status.faulted = false ∧ 10 < (loaded bufX).len ∧
    Memory.read (loaded bufX).buf 10 = some 0x01 ∧ (loaded bufX).len ≤ 11 := by decide

theorem witness_UnsignedByteResult : (loaded bufX).status.faulted = false ∧ 0 < (loaded bufX).len ∧
    Memory.read (loaded bufX).buf 0 = some 0x38 ∧ State.reset.status.faulted = false ∧
    State.reset.len ≤ 0 := by decide

theorem witness_BitFlagResult : (loaded bufX).status.faulted = false ∧ 7 < 8 ∧
    0 < (loaded bufX).params.resW ∧ 10 < (loaded bufX).len ∧
    Memory.read (loaded bufX).buf 10 = some 0x01 ∧ (loaded bufX).len ≤ 11 := by decide

/-- The last offset in bounds of each width, 9 for two bytes and 10 for one. -/
theorem witness_CodecResultsAreExact : 18 ≤ (loaded bufX).params.resW ∧
    (loaded bufX).status.faulted = false ∧ 9 + 2 ≤ (loaded bufX).len ∧
    read16 (loaded bufX) .be 9 = some 0xFF01 ∧ 10 + 1 ≤ (loaded bufX).len ∧
    bufRead (loaded bufX) 10 = some 0x01 := by decide

theorem witness_EncodeThenDecodeBigEndian : State.reset.status.faulted = false ∧
    2 ≤ State.reset.params.bufCap ∧ 18 ≤ State.reset.params.resW ∧ (-32768 : Int) ≤ -32768 ∧
    (-32768 : Int) ≤ 32767 := by decide

theorem witness_EncodeThenDecodeLittleEndianSwaps : (loaded bufX).status.faulted = false ∧
    2 ≤ (loaded bufX).params.bufCap ∧
    18 ≤ (loaded bufX).params.resW ∧ (-32768 : Int) ≤ 32767 := by decide

theorem witness_SignedAndUnsignedAgree : 18 ≤ (loaded bufX).params.resW ∧
    (loaded bufX).status.faulted = false ∧ 9 + 2 ≤ (loaded bufX).len ∧
    read16 (loaded bufX) .le 9 = some 0x01FF ∧ 9 < (loaded bufX).len ∧
    bufRead (loaded bufX) 9 = some 0xFF := by decide

/-- Two buffers that agree at offsets 1 and 2 and nowhere else. -/
theorem witness_CodecReadsOnlyItsBytes :
    (loaded [1, 2, 3]).params.resW = (loaded [9, 2, 3, 4]).params.resW ∧
    (loaded [1, 2, 3]).status.faulted = false ∧ (loaded [9, 2, 3, 4]).status.faulted = false ∧
    1 + 2 ≤ (loaded [1, 2, 3]).len ∧ 1 + 2 ≤ (loaded [9, 2, 3, 4]).len ∧
    bufRead (loaded [1, 2, 3]) 1 = bufRead (loaded [9, 2, 3, 4]) 1 ∧
    bufRead (loaded [1, 2, 3]) 2 = bufRead (loaded [9, 2, 3, 4]) 2 ∧
    (∃ t, exec (.dec16 .le 1) (loaded [1, 2, 3]) = .next t) ∧
    (∃ t, exec (.dec16 .le 1) (loaded [9, 2, 3, 4]) = .next t) ∧
    (∃ t, exec (.bitx 1 1) (loaded [1, 2, 3]) = .next t) ∧
    ∃ t, exec (.bitx 1 1) (loaded [9, 2, 3, 4]) = .next t :=
  ⟨by decide, by decide, by decide, by decide, by decide, by decide, by decide,
    exists_next (by decide), exists_next (by decide), exists_next (by decide), exists_next (by decide)⟩

theorem witness_HalfReadByByteOrder : BufferCoherent (loaded bufX) ∧ 9 + 2 ≤ (loaded bufX).len :=
  ⟨coherent_loaded _ (by decide), by decide⟩

/-- Both widths at the last offset in bounds and the first out of bounds. -/
theorem witness_BoundsFaultExactlyAboveLen : BufferCoherent (loaded bufX) ∧
    (loaded bufX).status.faulted = false ∧ 9 + 2 ≤ (loaded bufX).len ∧ (loaded bufX).len < 10 + 2 ∧
    10 + 1 ≤ (loaded bufX).len ∧ (loaded bufX).len < 11 + 1 :=
  ⟨coherent_loaded _ (by decide), by decide, by decide, by decide, by decide, by decide⟩

theorem witness_CodecDecodeFrame : (∃ t, exec (.dec16 .le 9) (loaded bufX) = .next t) ∧
    (∃ t, exec (.dec16u .be 10) (loaded bufX) = .next t) ∧
    (∃ t, exec (.bitx 10 7) (loaded bufX) = .next t) ∧ ∃ t, exec (.dec8 0) stopped = .next t :=
  ⟨exists_next (by decide), exists_next (by decide), exists_next (by decide), exists_next (by decide)⟩

theorem witness_EncoderFrame : (∃ t, exec .enc16be (armed 5 6) = .next t) ∧
    ∃ t, exec .enc16be State.reset = .next t :=
  ⟨exists_next (by decide), exists_next (by decide)⟩

theorem witness_PacketDecodeResult : BufferCoherent loadedBE ∧ paramsOk loadedBE.params = true ∧
    loadedBE.status.faulted = false ∧ loadedBE.len = loadedBE.params.pktLen ∧
    BufferCoherent (loaded (packetA.take 79)) ∧
    (loaded (packetA.take 79)).len ≠ (loaded (packetA.take 79)).params.pktLen :=
  ⟨coherent_loadedBE, by decide +kernel, by decide, by decide, coherent_loaded _ (by decide), by decide⟩

/-- Lengths 79 and 81. -/
theorem witness_MalformedLengthWritesLastOnly : State.reset.status.faulted = false ∧
    (loaded (packetA.take 79)).len ≠ (loaded (packetA.take 79)).params.pktLen ∧
    (loaded (0 :: packetA)).len ≠ (loaded (0 :: packetA)).params.pktLen := by decide

theorem witness_MalformedPacketIsNotSticky :
    exec .decode State.reset = .next (conclude .errMalformed (setLast .errMalformed Status.reset)
      State.reset) ∧
    paramsOk State.reset.params = true ∧ State.reset.status.faulted = false ∧
    State.reset.len ≠ State.reset.params.pktLen ∧ packetA.length = State.reset.params.pktLen :=
  ⟨rfl, defaultParams_ok, by decide, by decide, by decide⟩

theorem witness_DecodeIsTotalOnPackets : paramsOk State.reset.params = true ∧
    State.reset.status.faulted = false ∧ packetA.length = State.reset.params.pktLen :=
  ⟨defaultParams_ok, by decide, by decide⟩

/-- A row of each kind, the last of them ending at LEN. -/
theorem witness_FieldValueByKind : BufferCoherent loadedBE ∧ loadedBE.status.faulted = false ∧
    (∀ k ∈ [FieldKind.flag 7, .u8, .i8], 79 + k.width ≤ loadedBE.len) ∧
    (∀ k ∈ [FieldKind.u16, .i16], 78 + k.width ≤ loadedBE.len) ∧
    bufRead loadedBE 78 = some 0x7F ∧ bufRead loadedBE 79 = some 0x01 :=
  ⟨coherent_loadedBE, by decide, by decide, by decide, by decide, by decide⟩

theorem witness_FlagDependsOnItsBitAlone : bufRead (loaded [0x84]) 0 = some 0x84 ∧
    bufRead (loaded [0xFF, 1]) 0 = some 0xFF ∧
    (0x84#8).getLsbD 7 = (0xFF#8).getLsbD 7 := by decide

/-- Packet A with other unused bytes. -/
def packetSkipped : List Byte :=
  packetA.set 9 0x00 |>.set 36 0x00 |>.set 37 0x00 |>.set 38 0x00

theorem witness_UnusedBytesAreSkipped : paramsOk (loaded packetA).params = true ∧
    BufferCoherent (loaded packetA) ∧ BufferCoherent (loaded packetSkipped) ∧
    packetA ≠ packetSkipped ∧ (loaded packetA).status.faulted = false ∧
    (loaded packetA).len = (loaded packetA).params.pktLen ∧
    (loaded packetSkipped).len = (loaded packetSkipped).params.pktLen ∧
    ∀ x, x ≠ 9 → x ≠ 36 → x ≠ 37 → x ≠ 38 →
      bufRead (loaded packetA) x = bufRead (loaded packetSkipped) x := by
  refine ⟨defaultParams_ok, coherent_loaded _ (by decide), coherent_loaded _ (by decide), by decide,
    by decide, by decide, by decide, ?_⟩
  intro x h1 h2 h3 h4
  simp only [loaded, bufRead_writeBuf, packetSkipped, List.getElem?_set]
  simp [Ne.symm h1, Ne.symm h2, Ne.symm h3, Ne.symm h4]

theorem witness_InfraredOffsets : paramsOk (loaded packetA).params = true ∧
    (loaded packetA).params.fieldTable = defaultFieldTable ∧ BufferCoherent (loaded packetA) ∧
    (loaded packetA).status.faulted = false ∧
    (loaded packetA).len = (loaded packetA).params.pktLen ∧
    BufferCoherent (loaded (packetA.set 69 0)) ∧ (loaded (packetA.set 69 0)).len = (loaded packetA).len ∧
    ∀ y, y ≠ 69 → bufRead (loaded (packetA.set 69 0)) y = bufRead (loaded packetA) y := by
  refine ⟨defaultParams_ok, rfl, coherent_loaded _ (by decide), by decide, by decide,
    coherent_loaded _ (by decide), by decide, ?_⟩
  intro y hy
  simp only [loaded, bufRead_writeBuf, List.getElem?_set]
  simp [Ne.symm hy]

theorem witness_RecordDependsOnBytesAlone :
    isNext (exec .decode (loaded packetA)) = true ∧
    isNext (exec .decode (tracked 7 9 (loaded packetA))) = true ∧
    (∀ x, bufRead (loaded packetA) x = bufRead (tracked 7 9 (loaded packetA)) x) ∧
    deltasOf (exec .decode (loaded packetA)) = some (-535, 500, 0x01C1) ∧
    deltasOf (exec .decode (tracked 7 9 (loaded packetA))) = some (-542, 491, 0x01C1) :=
  ⟨by decide +kernel, by decide +kernel, fun _ => rfl, by decide +kernel, by decide +kernel⟩

/-- Before the step SV is 0, after it STATUS has SV and LAST = OK. -/
theorem witness_OnlyDecodeWritesTheRecord :
    (loaded packetA).status.sv = false ∧
    deltasOf (step (awaiting ⟨.issuer, .issue 0x7000⟩ (loaded packetA))) = some (-535, 500, 0x01C1) :=
  ⟨by decide, by decide +kernel⟩

theorem witness_PacketDecodeFrame : (∃ t, exec .decode (loaded packetA) = .next t) ∧
    (∃ t, exec .decode State.reset = .next t) ∧ ∃ t, exec .decode stopped = .next t :=
  ⟨exists_next (by decide +kernel), exists_next (by decide), exists_next (by decide)⟩

/-- One channel a wrap at exactly 60000, the other an ordinary step of 59999. -/
theorem witness_TrackerUpdateResult : (armed 60000#16 59999#16).status.faulted = false ∧
    0 < (armed 60000#16 59999#16).params.wrapThresh ∧ (armed 60000#16 59999#16).status.av0 = true ∧
    (armed 60000#16 59999#16).status.av1 = true ∧
    (armed 60000#16 59999#16).arg0.toNat < 2 ^ (armed 60000#16 59999#16).params.cntW ∧
    (armed 60000#16 59999#16).arg1.toNat < 2 ^ (armed 60000#16 59999#16).params.cntW ∧
    IsDelta defaultParams 60000 0 (-5535) ∧ IsDelta defaultParams 59999 0 59999 ∧
    IsDelta defaultParams 0 60000 5535 ∧ State.reset.status.av0 = false := by
  unfold IsDelta; decide

theorem widths_armed (a b : BitVec 16) : WidthsHold (armed a b) :=
  ⟨Nat.two_pow_pos _, Nat.two_pow_pos _, Nat.two_pow_pos _, Nat.two_pow_pos _, Nat.two_pow_pos _⟩

/-- Accepted parameters with counters of 8 bits, which 300 does not fit. -/
def narrow : Params := { defaultParams with cntW := 8, wrapThresh := 200, wrapK := 255 }

theorem witness_DeltaRangeAndReadBack : (armed 65535#16 0#16).status.faulted = false ∧
    paramsOk (armed 65535#16 0#16).params = true ∧ WidthsHold (armed 65535#16 0#16) ∧
    (armed 65535#16 0#16).status.av0 = true ∧ (armed 65535#16 0#16).status.av1 = true ∧
    (armed 65535#16 0#16).params.cntW = 16 ∧ (armed 65535#16 0#16).params.wrapThresh = 60000 ∧
    (armed 65535#16 0#16).params.wrapK = 65535 ∧
    paramsOk narrow = true ∧ ¬ (300#16).toNat < 2 ^ narrow.cntW :=
  ⟨by decide, defaultParams_ok, widths_armed _ _, by decide, by decide, by decide, by decide, by decide,
    by decide +kernel, by decide⟩

/-- Both wrap branches at the threshold: 0 to 60000, and 60000 to 0. -/
theorem witness_WrapDeltaIsOneNearerToZero : (armed 60000#16 0).status.faulted = false ∧
    (armed 60000#16 0).params.resW = 32 ∧ (armed 60000#16 0).params.wrapThresh = 60000 ∧
    (armed 60000#16 0).params.wrapK = 65535 ∧ (armed 60000#16 0).params.cntW = 16 ∧
    WidthsHold (armed 60000#16 0) ∧ WidthsHold (tracked 60000 0 (armed 0 0)) ∧
    (armed 60000#16 0).status.av0 = true ∧ (armed 60000#16 0).status.av1 = true ∧
    (armed 60000#16 0).prevL + 60000 ≤ (armed 60000#16 0).arg0.toNat ∧
    (tracked 60000 0 (armed 0 0)).arg0.toNat + 60000 ≤ (tracked 60000 0 (armed 0 0)).prevL :=
  ⟨by decide, by decide, by decide, by decide, by decide, widths_armed _ _,
    ⟨by decide, by decide, by decide, by decide, by decide⟩, by decide, by decide, by decide, by decide⟩

theorem witness_TrackerChannelsAreIndependent : (armed 5 6).params = (armed 5 7).params ∧
    (armed 5 6).status.faulted = false ∧ (armed 5 7).status.faulted = false ∧
    (armed 5 6).status.av0 = true ∧ (armed 5 6).status.av1 = true ∧ (armed 5 7).status.av0 = true ∧
    (armed 5 7).status.av1 = true ∧ (armed 5 6).arg0 = (armed 5 7).arg0 ∧
    (armed 5 6).prevL = (armed 5 7).prevL :=
  ⟨rfl, by decide, by decide, by decide, by decide, by decide, by decide, rfl, rfl⟩

/-- A step that changes PREVL, DV and PHASE. -/
theorem witness_OnlyTheTrackerWritesItsState : running.status.dv = false ∧
    deltasOf (step running) = some (-535, 500, 0x1941) := by decide

theorem witness_FirstUpdateComputesAgainstZero : Inv running ∧ running.status.faulted = false ∧
    running.status.phase = .uninitialized ∧ running.status.av0 = true ∧ running.status.av1 = true ∧
    (∃ t, step (tracked 5 6 running) = .next t) ∧ (tracked 5 6 running).status.phase = .tracking :=
  ⟨running_inv, by decide, by decide, by decide, by decide, exists_next (by decide), by decide⟩

theorem witness_RepeatedUpdateGivesZero : 0 < (armed 5 6).params.wrapThresh ∧
    (armed 5 6).status.faulted = false ∧
    ∃ t u, exec .trkupd (armed 5 6) = .next t ∧ t.status.last = .ok ∧ exec .trkupd t = .next u :=
  ⟨by decide, by decide, _, _, rfl, rfl, rfl⟩

theorem witness_TrackerUpdateFrame : (∃ t, exec .trkupd (armed 5 6) = .next t) ∧
    ∃ t, exec .trkupd State.reset = .next t :=
  ⟨exists_next (by decide), exists_next (by decide)⟩

/-- One state for each of the five lines of R206. -/
theorem witness_OutcomeOfEveryWord : Inv running ∧ running.status.faulted = false ∧
    wordIllegal 0x0000 = true ∧ decodeWord 0x8000 = .ok .trkupd ∧ causeOf running .trkupd = .ok ∧
    decodeWord 0x7000 = .ok .decode ∧ causeOf running .decode = .ok ∧
    decodeWord 0x404F = .ok (.dec8 79) ∧ causeOf running (.dec8 79) = .ok ∧
    decodeWord 0x4050 = .ok (.dec8 80) ∧ causeOf running (.dec8 80) = .fault .bounds ∧
    causeOf State.reset .enc16be = .fault .unwrittenArg ∧ causeOf State.reset .decode = .errMalformed ∧
    stopped.status.faulted = true :=
  ⟨running_inv, by decide, by decide, by decide, by decide, by decide, by decide, by decide, by decide,
    by decide, by decide, by decide, by decide, by decide⟩

theorem witness_FaultsArePrecise :
    (∃ t, perform (.issue 0x8000) State.reset = .next t ∧
      t.replies = .outcome (.fault .unwrittenArg) :: State.reset.replies) ∧
    stopped.status.faulted = true ∧
    (∃ t, step (awaiting ⟨.issuer, .issue 0x8000⟩ stopped) = .next t) ∧
    ∃ t, step (awaiting ⟨.issuer, .reset⟩ stopped) = .next t ∧ t.status.faulted = false :=
  ⟨⟨_, rfl, rfl⟩, by decide, exists_next (by decide), _, rfl, rfl⟩

theorem witness_FaultedBlockAcceptsNoWord : stopped.status.faulted = true ∧
    packetA.length ≤ stopped.params.bufCap ∧ (-32768 : Int) ≤ 65535 ∧
    ∃ t, perform .reset stopped = .next t ∧ t.status.faulted = false :=
  ⟨by decide, by decide, by decide, _, rfl, rfl⟩

/-- The defaults meet every constraint. -/
theorem defaultParams_meet : ParamsMeet defaultParams where
  packet_fits := by decide
  thresh_pos := by decide
  thresh_le := by decide
  wrapK_le := by decide
  resW_ge := by decide
  delta_fits := by decide
  rows_inside := by decide
  rows_skip r hr x hx hc := by
    have h := (row_of_fieldTableOk (p := defaultParams) (by decide +kernel) hr).2 x hx
    rw [(covers_iff r x).mpr hc] at h
    cases h
  rows_agree := pairwise_of_rowsFit (by decide +kernel)
  count_left := by decide +kernel
  count_right := by decide +kernel

/-- Each constraint broken alone, at its boundary, those between two rows among them: a byte under two rows of no flag, under
a flag and a row of no flag, and under two flags of one bit. -/
theorem witness_BadParametersAreRefused : ParamsMeet defaultParams ∧
    ¬ ParamsMeet { defaultParams with bufCap := 79 } ∧
    ¬ ParamsMeet { defaultParams with wrapThresh := 65536 } ∧
    ¬ ParamsMeet { defaultParams with wrapK := 65537 } ∧
    ¬ ParamsMeet { defaultParams with resW := 17 } ∧
    ¬ ParamsMeet { defaultParams with cntW := 31 } ∧
    ¬ RowsAgree ⟨.stasis, 78, .u16⟩ ⟨.oiMode, 79, .u8⟩ ∧
    ¬ RowsAgree ⟨.stasis, 79, .flag 0⟩ ⟨.oiMode, 79, .u8⟩ ∧
    ¬ RowsAgree ⟨.stasis, 79, .flag 0⟩ ⟨.oiMode, 79, .flag 0⟩ ∧
    ¬ RowsAgree ⟨.stasis, 78, .u8⟩ ⟨.stasis, 79, .u8⟩ := by
  refine ⟨defaultParams_meet, fun h => absurd h.packet_fits (by decide),
    fun h => absurd h.thresh_le (by decide), fun h => absurd h.wrapK_le (by decide),
    fun h => absurd h.resW_ge (by decide), fun h => absurd h.delta_fits (by decide), ?_, ?_, ?_,
    fun h => h.1 rfl⟩
  · rintro ⟨_, h⟩
    obtain ⟨_, _, h, _⟩ := h 79 ((covers_iff _ _).mp (by decide)) ((covers_iff _ _).mp (by decide))
    cases h
  · rintro ⟨_, h⟩
    obtain ⟨_, _, _, h, _⟩ := h 79 ((covers_iff _ _).mp (by decide)) ((covers_iff _ _).mp (by decide))
    cases h
  · rintro ⟨_, h⟩
    obtain ⟨_, _, h0, h1, h⟩ := h 79 ((covers_iff _ _).mp (by decide)) ((covers_iff _ _).mp (by decide))
    cases h0
    cases h1
    exact h rfl

theorem witness_LoadReplacesTheBuffer : (List.replicate 256 (0 : Byte)).length ≤ State.reset.params.bufCap ∧
    State.reset.params.bufCap < (List.replicate 257 (0 : Byte)).length := by
  simp only [List.length_replicate]; decide

theorem witness_WriteSetsOneOperand : (-32768 : Int) ≤ 65535 ∧ (65535 : Int) ≤ 65535 ∧
    (-32769 : Int) < -32768 ∧ 65535 < (65536 : Int) := by decide

theorem witness_RepliesAreSnapshots : (∃ t, step running = .next t) ∧ ∃ t, step State.reset = .next t :=
  ⟨exists_next (by decide), exists_next (by decide)⟩

theorem witness_ParametersAreFixed : (∃ t, step running = .next t) ∧
    ∃ t, step (awaiting ⟨.issuer, .reset⟩ loadedBE) = .next t :=
  ⟨exists_next (by decide), exists_next (by decide)⟩

theorem witness_SecondIssuerIsRefused :
    (awaiting ⟨.other 3, .issue 0x8000⟩ running).pending = ⟨.other 3, .issue 0x8000⟩ :: [] ∧
    (∀ n, HostAction.issue 0x8000 ≠ .rd n) ∧
    (awaiting ⟨.other 3, .rd .dl⟩ running).pending = ⟨.other 3, .rd .dl⟩ :: [] :=
  ⟨rfl, nofun, rfl⟩

theorem witness_FlagMacroReadsTheField : paramsOk (loaded packetA).params = true ∧
    BufferCoherent (loaded packetA) ∧ (loaded packetA).status.faulted = false ∧
    (loaded packetA).len = (loaded packetA).params.pktLen ∧
    FieldRow.mk .buttons_clock 11 (.flag 7) ∈ (loaded packetA).params.fieldTable :=
  ⟨defaultParams_ok, coherent_loaded _ (by decide), by decide, by decide, by decide +kernel⟩

/-- Accepted parameters with a packet of 257 bytes and a flag row at offset 256. -/
def longPacket : Params :=
  { defaultParams with
    pktLen := 257
    bufCap := 257
    fieldTable := ⟨.other 0, 256, .flag 0⟩ :: defaultFieldTable }

theorem witness_FlagMacroReadsTheField_far : paramsOk longPacket = true ∧
    BufferCoherent (writeBuf (List.replicate 257 0) (State.resetWith longPacket)) ∧
    (writeBuf (List.replicate 257 0) (State.resetWith longPacket)).len = longPacket.pktLen ∧
    FieldRow.mk (.other 0) 256 (.flag 0) ∈ longPacket.fieldTable :=
  ⟨by decide +kernel, bufferCoherent_writeBuf (Nat.le_of_eq List.length_replicate),
    List.length_replicate, by decide +kernel⟩

theorem witness_StepRunsTheDecodedWord :
    running.pending = ⟨.issuer, .issue 0x8000⟩ :: running.pending.tail ∧
    decodeWord 0x8000 = .ok .trkupd ∧ decodeWord 0x9000 = .error .reservedOp ∧
    running.status.faulted = false ∧ decodeTableWord 16 0x67FF = some (.bitx 255 7) ∧
    State.reset.pending = [] := by decide

theorem witness_ResetMeetsTheInvariant :
    paramsOk { defaultParams with pktOrd := .be, resW := 18 } = true := by decide +kernel

theorem witness_StepKeepsTheInvariant : Inv running ∧ ∃ t, step running = .next t :=
  ⟨running_inv, exists_next (by decide)⟩

theorem witness_StepKeepsTheBufferCanonical : Memory.wf running.buf = true ∧
    (∃ t, step running = .next t) ∧
    ∃ t, step (awaiting ⟨.issuer, .load bufX⟩ running) = .next t :=
  ⟨by decide, exists_next (by decide), exists_next (by decide)⟩

theorem witness_NoStopOnExistingActions : Inv running ∧
    ∀ e ∈ running.pending.head?, eventLegal running.params e = true :=
  ⟨running_inv, by decide⟩

theorem witness_HostProgramEnds : Inv running ∧ running.pending.length = 4 ∧
    ∀ e ∈ running.pending, eventLegal running.params e = true :=
  ⟨running_inv, rfl, by decide⟩

end Sys2Proof.Tests
end

section
/-! PROOFS. Faults are precise (R42, R201): what an operation that faults leaves, and what clears a recorded fault. -/

namespace Sys2Proof.Machine

/-- Raising a fault writes the three fields of R42 and returns the outcome, nothing else. -/
theorem conclude_setFault_eq_faultTaken (c : FaultCause) (s : State) :
    conclude (.fault c) (setFault c s.status) s = faultTaken c s := rfl

/-- The outcome is returned by the end of an operation alone: no register write returns one. -/
theorem Effect.replies_eq {i : Instr} {s t : State} (h : Effect i s t) : t.replies = s.replies := by
  cases h <;> rfl

/-- Of the four ways an operation ends, only the fault returns a fault. -/
theorem Ends.eq_faultTaken {i : Instr} {s t : State} {c : FaultCause} (h : Ends i s t)
    (hr : t.replies = .outcome (.fault c) :: s.replies) : t = faultTaken c s := by
  cases h with
  | notAccepted hf => simp at hr
  | fault hf d =>
    obtain rfl : d = c := by simpa using hr
    exact conclude_setFault_eq_faultTaken d s
  | malformed hf hi hl => simp at hr
  | ok hf he => simp [he.replies_eq] at hr

/-- An illegal word that returns a fault has taken it. -/
theorem illegalWord_eq_faultTaken {s t : State} {c : FaultCause} (h : illegalWord s = .next t)
    (hr : t.replies = .outcome (.fault c) :: s.replies) : t = faultTaken c s := by
  obtain ⟨-, rfl⟩ | ⟨-, rfl⟩ := illegalWord_next h
  · simp at hr
  · obtain rfl : FaultCause.illegalOp = c := by simpa using hr
    exact conclude_setFault_eq_faultTaken .illegalOp s

/-- Every word that returns a fault has taken it, and has done nothing else (R42, R201). -/
theorem perform_issue_eq_faultTaken {s t : State} {w : Word} {c : FaultCause}
    (h : perform (.issue w) s = .next t) (hr : t.replies = .outcome (.fault c) :: s.replies) :
    t = faultTaken c s := by
  cases hd : decodeWord w with
  | ok i => exact (exec_ends (perform_issue_ok hd ▸ h)).eq_faultTaken hr
  | error e => exact illegalWord_eq_faultTaken (perform_issue_error hd ▸ h) hr

/-- While FAULTED every host action but reset keeps FAULTED and FCAUSE: a word is not accepted, and LOAD, WR and reads
write other fields (R202). -/
theorem perform_keeps_fault {a : HostAction} {s t : State} (h : perform a s = .next t)
    (hf : s.status.faulted = true) (ha : a ≠ .reset) :
    t.status.faulted = true ∧ t.status.fcause = s.status.fcause := by
  cases a with
  | issue w =>
    rw [perform_issue_faulted w hf] at h
    cases h
    exact ⟨hf, rfl⟩
  | load bytes =>
    obtain ⟨-, rfl⟩ : _ ∧ t = writeBuf bytes s := by simpa using perform_next h
    exact ⟨hf, rfl⟩
  | wr arg v =>
    obtain ⟨-, rfl⟩ : _ ∧ t = writeArg arg (BitVec.ofNat 16 (uint 16 v)) s := by
      simpa using perform_next h
    simp [hf]
  | rd n =>
    cases h
    exact ⟨hf, rfl⟩
  | reset => exact absurd rfl ha

end Sys2Proof.Machine

open Sys2Proof.Machine in
/-- Settles O44: of the ways an operation ends only the fault returns one, and no action but reset clears it. -/
theorem faultsArePrecise : Obligations.FaultsArePrecise := by
  refine ⟨fun s t w c h hr => perform_issue_eq_faultTaken h hr, fun s t h hf => ?_⟩
  obtain ⟨-, rfl⟩ | ⟨e, rest, hp, -, he⟩ := step_next h
  · exact .inl ⟨hf, rfl⟩
  · by_cases ha : e.action = .reset
    · exact .inr ⟨e, rest, hp, ha⟩
    · exact .inl (perform_keeps_fault (s := { s with pending := rest }) he hf ha)

end

section
/-! PROOFS. The operation word's encoding (R73 to R77): at most one row of the opcode map matches a word, a word that
matches a row is that row's operation, and a word that matches none is illegal. -/

namespace Sys2Proof

/-- Every mask of the opcode map covers OP, so a word has the OP of the row it matches (R74). -/
theorem opField_eq_of_rowMatches {w : Word} {r : OpRow} (hr : r ∈ opTable) (h : rowMatches w r = true) :
    opField w = opField r.pattern := by
  have covers : ∀ r ∈ opTable, r.mask.extractLsb' 12 4 = BitVec.allOnes 4 := by decide
  have hw : w &&& r.mask = r.pattern := by simpa [rowMatches] using h
  rw [← hw, opField, opField, BitVec.extractLsb'_and, covers r hr, BitVec.and_allOnes]

/-- At most one row of the opcode map matches a word, since no two rows have the same OP (R74). -/
theorem rowMatches_unique {w : Word} {a b : OpRow} (ha : a ∈ opTable) (hb : b ∈ opTable)
    (hwa : rowMatches w a = true) (hwb : rowMatches w b = true) : a = b := by
  have distinct : ∀ a ∈ opTable, ∀ b ∈ opTable, opField a.pattern = opField b.pattern → a = b := by decide
  exact distinct a ha b hb <|
    (opField_eq_of_rowMatches ha hwa).symm.trans (opField_eq_of_rowMatches hb hwb)

/-- A word that matches a row of the opcode map is the row's operation (R74). -/
theorem decodeWord_of_rowMatches {w : Word} {r : OpRow} (hr : r ∈ opTable) (h : rowMatches w r = true) :
    decodeWord w = .ok (operandsOf w r.op) := by
  obtain ⟨r', hf⟩ := Option.isSome_iff_exists.mp (List.find?_isSome.mpr ⟨r, hr, h⟩)
  obtain rfl : r' = r := rowMatches_unique (List.mem_of_find?_eq_some hf) hr (List.find?_some hf) h
  simp [decodeWord, hf]

/-- A word that matches no row of the opcode map is illegal, and its OP says why (R73, R76). -/
theorem decodeWord_of_no_rowMatches {w : Word} (h : ∀ r ∈ opTable, ¬ rowMatches w r = true) :
    decodeWord w = .error (if opReserved (opField w) then .reservedOp else .mustBeZero) := by
  simp [decodeWord, List.find?_eq_none.mpr h]

/-- No row of the opcode map has a reserved OP, so a word with one matches none (R76). -/
theorem not_rowMatches_of_opReserved {w : Word} (h : opReserved (opField w) = true) :
    ∀ r ∈ opTable, ¬ rowMatches w r = true := by
  have named : ∀ r ∈ opTable, opReserved (opField r.pattern) = false := by decide
  intro r hr hm
  simp [opField_eq_of_rowMatches hr hm, named r hr] at h

theorem decodeWord_of_opReserved {w : Word} (h : opReserved (opField w) = true) :
    decodeWord w = .error .reservedOp := by
  rw [decodeWord_of_no_rowMatches (not_rowMatches_of_opReserved h), if_pos h]

theorem opReserved_opField_iff (w : Word) :
    opReserved (opField w) = true ↔ w.toNat / 4096 = 0 ∨ 9 ≤ w.toNat / 4096 := by
  simp [opReserved, opField_eq]

end Sys2Proof

namespace Sys2Proof.Machine

/-- The masks of R74 and the must-be-zero bits of R73 agree: the words that match a row are those that are not illegal.
Both are conditions on the OP and on a few further bits of the number of the word. -/
theorem exists_rowMatches_iff (w : Word) :
    (∃ r ∈ opTable, rowMatches w r = true) ↔ wordIllegal w = false := by
  have hw := w.isLt
  simp only [opTable, List.mem_cons, List.not_mem_nil, or_false, exists_eq_or_imp, exists_eq_left,
    rowMatches, decide_eq_true_eq, and_allBits, rowMatches_dec16, rowMatches_dec16u, rowMatches_dec8,
    rowMatches_dec8u, rowMatches_bitx]
  simp only [← BitVec.toNat_inj, BitVec.reduceToNat]
  simp only [wordIllegal, Bool.or_eq_false_iff, Bool.and_eq_false_iff, decide_eq_false_iff_not]
  omega

theorem decodeWord_of_wordIllegal {w : Word} (h : wordIllegal w = true) :
    decodeWord w = .error (if opReserved (opField w) then .reservedOp else .mustBeZero) := by
  refine decodeWord_of_no_rowMatches fun r hr hm => ?_
  simp [(exists_rowMatches_iff w).mp ⟨r, hr, hm⟩] at h

/-- Decode is total: the words that are operations are those that are not illegal (R73, R76). -/
theorem exists_decodeWord_ok_iff (w : Word) :
    (∃ i, decodeWord w = .ok i) ↔ wordIllegal w = false := by
  constructor
  · rintro ⟨i, hi⟩
    by_contra h
    simp [decodeWord_of_wordIllegal (eq_true_of_ne_false h)] at hi
  · intro h
    obtain ⟨r, hr, hm⟩ := (exists_rowMatches_iff w).mpr h
    exact ⟨_, decodeWord_of_rowMatches hr hm⟩

/-- On a block that is not faulted an illegal word takes `Fault(ILLEGAL_OP)`, and nothing else changes (R77). -/
theorem illegalWord_clear {s : State} (h : s.status.faulted = false) :
    illegalWord s = .next (faultTaken .illegalOp s) :=
  whenAccepted_clear h

end Sys2Proof.Machine

open Sys2Proof in
/-- Settles O3: a row that matches gives the operation, and two rows that match have the same OP. -/
theorem opcodeMapDecodes : Obligations.OpcodeMapDecodes := by
  intro w
  have row (op : Op) (p m : Word) (hr : ⟨op, p, m⟩ ∈ opTable) (h : w &&& m = p) :
      decodeWord w = .ok (operandsOf w op) := decodeWord_of_rowMatches hr (decide_eq_true h)
  simp only [← ordField_eq, ← offField_eq, ← bitField_eq]
  exact ⟨row .enc16be _ _ (by decide), row .dec16 _ _ (by decide), row .dec16u _ _ (by decide),
    row .dec8 _ _ (by decide), row .dec8u _ _ (by decide), row .bitx _ _ (by decide),
    row .decode _ _ (by decide), row .trkupd _ _ (by decide),
    fun _ ha _ hb hwa hwb => rowMatches_unique ha hb hwa hwb⟩

open Sys2Proof in
/-- Settles O4: a word with a reserved OP matches no row. -/
theorem reservedOpWordsAreIllegal : Obligations.ReservedOpWordsAreIllegal :=
  ⟨fun w h => decodeWord_of_opReserved ((opReserved_opField_iff w).mpr h),
    decodeWord_of_opReserved (by decide)⟩

open Sys2Proof Sys2Proof.Machine in
/-- Settles O5: a word with a must-be-zero bit set matches no row, and its OP is not the reason. -/
theorem mustBeZeroBitsAreIllegal : Obligations.MustBeZeroBitsAreIllegal := by
  refine fun w => ⟨fun h1 h8 hi => ?_, exists_decodeWord_ok_iff w⟩
  have hop : ¬ opReserved (opField w) = true := by
    rw [opReserved_opField_iff]
    omega
  rw [decodeWord_of_wordIllegal hi, if_neg hop]

open Sys2Proof Sys2Proof.Machine in
/-- Settles O6: an illegal word is rejected by the decoder and faults, every other one runs its operation. -/
theorem issuedIllegalWordFaults : Obligations.IssuedIllegalWordFaults := by
  refine fun w s => ⟨fun hi hf => ?_, fun hi => ?_⟩
  · rw [perform_issue_error (decodeWord_of_wordIllegal hi), illegalWord_clear hf]
  · obtain ⟨i, hd⟩ := (exists_decodeWord_ok_iff w).mpr hi
    exact ⟨i, hd, perform_issue_ok hd⟩

end

section
/-! PROOFS. The codec's operations (R100 to R106): the numbers they compute, what each answers in bounds and out of bounds,
and what none of them writes. -/

namespace Sys2Proof.Machine

/-- Two's complement of 16 bits, in the numbers of R102. -/
theorem sint_16 (u : Nat) : sint 16 u = if u < 32768 then (u : Int) else (u : Int) - 65536 := by
  simp only [sint, ← Nat.not_lt, ite_not]
  norm_num

/-- Two's complement of 8 bits, in the numbers of R104. -/
theorem sint_8 (u : Nat) : sint 8 u = if u < 128 then (u : Int) else (u : Int) - 256 := by
  simp only [sint, ← Nat.not_lt, ite_not]
  norm_num

/-- The bit test as a number: the bit under the mask alone (R106). -/
theorem bitTest_toNat (b : Byte) {bit : Nat} (h : bit < 8) :
    (if bitTest b bit then 1 else 0) = b.toNat / 2 ^ bit % 2 := by
  have hbit : bitTest b bit = b.toNat.testBit bit := bitTest_eq b ⟨bit, h⟩
  rw [hbit, ← Nat.toNat_testBit, Bool.toNat, Bool.cond_eq_ite]

theorem highByte_eq (v : Word) : v.extractLsb' 8 8 = BitVec.ofNat 8 (v.toNat / 256) := by
  rw [BitVec.extractLsb', Nat.shiftRight_eq_div_pow]

theorem lowByte_eq (v : Word) : v.extractLsb' 0 8 = BitVec.ofNat 8 (v.toNat % 256) := by
  apply BitVec.eq_of_toNat_eq
  simp

theorem bufRead_of_read {s : State} {off : Nat} {b : Byte} (ho : off < s.len)
    (h : Memory.read s.buf off = some b) : bufRead s off = some b :=
  (if_pos ho).trans h

theorem raiseFault_eq_faultTaken (c : FaultCause) (s : State) :
    raiseFault c s = .next (faultTaken c s) :=
  congrArg Host.Outcome.next (conclude_setFault_eq_faultTaken c s)

/-- The end of a decode: RES and RV, LAST and the outcome, nothing else (R100). -/
theorem returnOk_writeRes (v : Nat) (s : State) :
    returnOk (writeRes v s) = .next { s with
      res := v
      status := { s.status with rv := true, last := .ok }
      replies := .outcome .ok :: s.replies } := rfl

/-- The end of ENC16BE: both bytes and OV, LAST and the outcome, nothing else (R100). -/
theorem returnOk_writeOut (hi lo : Byte) (s : State) :
    returnOk (writeOut hi lo s) = .next { s with
      out0 := hi
      out1 := lo
      status := { s.status with ov := true, last := .ok }
      replies := .outcome .ok :: s.replies } := rfl

/-- An accepted read that lies below LEN and finds content goes on with it. -/
theorem checkedRead_in {s : State} {off w : Nat} {α : Type} {x : Option α} {a : α} {k : α → Result}
    (hf : s.status.faulted = false) (hl : off + w ≤ s.len) (hx : x = some a) :
    whenAccepted s (whenInBounds off w s (withContent x k)) = k a := by
  rw [whenAccepted_clear hf, whenInBounds_in hl, hx, withContent_some]

/-- An accepted read that ends above LEN takes `Fault(BOUNDS)` (R54, R205). -/
theorem checkedRead_out {s : State} {off w : Nat} {k : Result} (hf : s.status.faulted = false)
    (hl : s.len < off + w) :
    whenAccepted s (whenInBounds off w s k) = .next (faultTaken .bounds s) := by
  rw [whenAccepted_clear hf, whenInBounds_out (Nat.not_le.mpr hl), raiseFault_eq_faultTaken]

/-- Two bytes in the buffer below LEN, as DEC16 and DEC16U read them (R57). -/
theorem read16_of_read {s : State} {ord : ByteOrder} {off : Nat} {b0 b1 : Byte}
    (hl : off + 2 ≤ s.len) (h0 : Memory.read s.buf off = some b0)
    (h1 : Memory.read s.buf (off + 1) = some b1) : read16 s ord off = some (join16 ord b0 b1) :=
  read16_some (bufRead_of_read (by omega) h0) (bufRead_of_read (by omega) h1)

end Sys2Proof.Machine

open Sys2Proof.Machine in
/-- Settles O9: the joined bytes are read as two's complement of 16 bits. -/
theorem signedHalfResult : Obligations.SignedHalfResult := by
  refine fun s ord off hf => ⟨fun b0 b1 hl h0 h1 => ?_, checkedRead_out hf, fun _ => by cases ord <;> rfl⟩
  have run : exec (.dec16 ord off) s =
      returnOk (writeRes (sext s.params.resW (sint 16 (join16 ord b0 b1))) s) :=
    checkedRead_in hf hl (read16_of_read hl h0 h1)
  rw [run, sint_16, returnOk_writeRes]
  rfl

open Sys2Proof.Machine in
/-- Settles O10: the joined bytes are the number itself. -/
theorem unsignedHalfResult : Obligations.UnsignedHalfResult := by
  refine fun s ord off hf => ⟨fun b0 b1 hl h0 h1 => ?_, checkedRead_out hf, fun _ => by cases ord <;> rfl⟩
  have run : exec (.dec16u ord off) s =
      returnOk (writeRes (zext s.params.resW (join16 ord b0 b1)) s) :=
    checkedRead_in hf hl (read16_of_read hl h0 h1)
  rw [run, returnOk_writeRes]
  rfl

open Sys2Proof.Machine in
/-- Settles O11: the byte is read as two's complement of 8 bits. -/
theorem signedByteResult : Obligations.SignedByteResult := by
  refine fun s off hf => ⟨fun b hl hb => ?_, fun hl => checkedRead_out hf (Nat.lt_succ_of_le hl),
    fun _ => rfl⟩
  have run : exec (.dec8 off) s = returnOk (writeRes (sext s.params.resW (sint 8 b.toNat)) s) :=
    checkedRead_in hf hl (bufRead_of_read hl hb)
  rw [run, sint_8, returnOk_writeRes]
  rfl

open Sys2Proof.Machine in
/-- Settles O12: the byte is the number itself. -/
theorem unsignedByteResult : Obligations.UnsignedByteResult :=
  fun _ _ hf => ⟨fun _ hl hb => checkedRead_in hf hl (bufRead_of_read hl hb),
    fun hl => checkedRead_out hf (Nat.lt_succ_of_le hl), fun _ => rfl⟩

open Sys2Proof.Machine in
/-- Settles O13: the test under the mask is the bit, and one bit fits RES whole. -/
theorem bitFlagResult : Obligations.BitFlagResult := by
  refine fun s off bit hf hbit hw => ⟨fun b hl hb => ?_,
    fun hl => checkedRead_out hf (Nat.lt_succ_of_le hl), fun _ => rfl⟩
  have run : exec (.bitx off bit) s =
      returnOk (writeRes (zext s.params.resW (if bitTest b bit then 1 else 0)) s) :=
    checkedRead_in hf hl (bufRead_of_read hl hb)
  have fits : b.toNat / 2 ^ bit % 2 < 2 ^ s.params.resW :=
    (Nat.mod_lt _ Nat.two_pos).trans_le (Nat.le_pow hw)
  rw [run, bitTest_toNat b hbit, zext_of_lt fits, returnOk_writeRes]

open Sys2Proof.Machine in
/-- Settles O8: the two extracted bytes are quotient and remainder by 256. -/
theorem encoderResult : Obligations.EncoderResult := by
  refine fun s hf => ⟨fun hw => ?_, fun hw => ?_, rfl⟩
  · rw [exec, execEnc16be, whenAccepted_clear hf, hw, whenWritten_true, highByte_eq, lowByte_eq,
      returnOk_writeOut]
  · rw [exec, execEnc16be, whenAccepted_clear hf, hw, whenWritten_false, raiseFault_eq_faultTaken]

namespace Sys2Proof

/-- The operations whose result goes to RES: the codec's five decodes (R102 to R106). -/
def Instr.writesRes : Instr → Bool
  | .dec16 _ _ | .dec16u _ _ | .dec8 _ | .dec8u _ | .bitx _ _ => true
  | .enc16be | .decode | .trkupd => false

namespace Machine

/-- The five decodes differ in the number alone. -/
theorem Effect.eq_writeRes {i : Instr} {s t : State} (h : Effect i s t) (hi : i.writesRes = true) :
    ∃ v, t = writeRes v s := by
  cases h with
  | dec16 | dec16u | dec8 | dec8u | bitx => exact ⟨_, rfl⟩
  | enc16be | decode | trkupd => cases hi

theorem Effect.enc16be_eq {s t : State} (h : Effect .enc16be s t) :
    ∃ hi lo, t = writeOut hi lo s := by
  cases h
  exact ⟨_, _, rfl⟩

end Machine

end Sys2Proof

open Sys2Proof Sys2Proof.Machine in
/-- Settles O21: a decode that ends is not accepted, faults, or writes RES. -/
theorem codecDecodeFrame : Obligations.CodecDecodeFrame := by
  intro s t i hi h
  have hres : i.writesRes = true := by
    obtain ⟨_, _, rfl | rfl⟩ | ⟨_, rfl | rfl | ⟨_, rfl⟩⟩ := hi <;> rfl
  cases exec_ends h with
  | notAccepted hf => simp
  | fault hf c => simp
  | malformed hf hd hl => simp [hd, Instr.writesRes] at hres
  | ok hf he =>
    obtain ⟨v, rfl⟩ := he.eq_writeRes hres
    simp

open Sys2Proof Sys2Proof.Machine in
/-- Settles O22: ENC16BE, when it ends, is not accepted, faults, or writes OUT0 and OUT1. -/
theorem encoderFrame : Obligations.EncoderFrame := by
  intro s t h
  cases exec_ends h with
  | notAccepted hf => simp
  | fault hf c => simp
  | malformed hf hd hl => cases hd
  | ok hf he =>
    obtain ⟨hi, lo, rfl⟩ := he.enc16be_eq
    simp

end

section
/-! PROOFS. The packet decoder (R130 to R145): how DECODE ends on each length, the value of a row of each kind and the codec
operation that gives the same number, and the bytes on which a field of the record depends. -/

namespace Sys2Proof.Machine

theorem packet_fits_of_paramsOk {p : Params} (h : paramsOk p = true) : p.pktLen ≤ p.bufCap :=
  ((paramsOk_iff p).mp h).1

theorem fieldTableOk_of_paramsOk {p : Params} (h : paramsOk p = true) : fieldTableOk p = true := by
  obtain ⟨-, -, -, -, -, -, ht⟩ := (paramsOk_iff p).mp h
  exact ht

theorem recordField_of_recordCount {rec : Record} {x : FieldName} {c : BitVec 16}
    (h : recordCount rec x = some c) : recordField rec x = some (.u16 c) := by
  unfold recordCount at h
  split at h
  · next v hv => cases h; exact hv
  · cases h

/-! ### How DECODE ends -/

theorem exec_decode_malformed {s : State} (hf : s.status.faulted = false)
    (hl : s.len ≠ s.params.pktLen) :
    exec .decode s = .next { s with
      status := { s.status with last := .errMalformed }
      replies := .outcome .errMalformed :: s.replies } := by
  rw [exec, execDecode, whenAccepted_clear hf, if_neg hl]
  rfl

/-- A packet whose rows have values, the two counts among them, is accepted (R130). -/
theorem exec_decode_of_fieldsOf {s : State} {rec : Record} {l r : BitVec 16}
    (hf : s.status.faulted = false) (hl : s.len = s.params.pktLen)
    (hrec : fieldsOf s s.params.fieldTable = some rec)
    (h_l : recordCount rec .encoderCounts_left = some l)
    (h_r : recordCount rec .encoderCounts_right = some r) :
    exec .decode s = returnOk (trackerUpdate l r (writeSens rec s)) := by
  rw [exec, execDecode, whenAccepted_clear hf, if_pos hl, hrec, withContent_some, acceptPacket,
    h_l, h_r]

/-- Under accepted parameters every packet of PKT_LEN bytes is accepted (R132). -/
theorem exec_decode_packet {s : State} (hp : paramsOk s.params = true) (hc : BufferCoherent s)
    (hf : s.status.faulted = false) (hl : s.len = s.params.pktLen) :
    ∃ rec l r, fieldsOf s s.params.fieldTable = some rec ∧
      recordCount rec .encoderCounts_left = some l ∧
      recordCount rec .encoderCounts_right = some r ∧
      exec .decode s = returnOk (trackerUpdate l r (writeSens rec s)) := by
  obtain ⟨rec, l, r, hrec, h_l, h_r⟩ := packet_decodes hc (fieldTableOk_of_paramsOk hp) hl
  exact ⟨rec, l, r, hrec, h_l, h_r, exec_decode_of_fieldsOf hf hl hrec h_l h_r⟩

/-- The end of an accepted packet whose counts fit CNT_W: the record, the tracker, LAST and the outcome, nothing else
(R130, R173). -/
theorem returnOk_trackerUpdate_writeSens {l r : BitVec 16} {s : State} (rec : Record)
    (h_l : l.toNat < 2 ^ s.params.cntW) (h_r : r.toNat < 2 ^ s.params.cntW) :
    returnOk (trackerUpdate l r (writeSens rec s)) = .next { s with
      sens := rec
      prevL := l.toNat
      prevR := r.toNat
      dl := sext s.params.resW (delta s.params l.toNat s.prevL)
      dr := sext s.params.resW (delta s.params r.toNat s.prevR)
      status := { s.status with sv := true, dv := true, phase := .tracking, last := .ok }
      replies := .outcome .ok :: s.replies } := by
  rw [trackerUpdate, writeSens_params, countOf_of_lt h_l, countOf_of_lt h_r]
  rfl

theorem perform_load {s : State} {bytes : List Byte} (h : bytes.length ≤ s.params.bufCap) :
    perform (.load bytes) s = .next (writeBuf bytes s) :=
  if_pos h

/-! ### The value of a row of each kind (R141) -/

section

variable {s : State} {row : FieldRow} {b0 b1 : Byte}

theorem fieldValue_flag {bit : Fin 8} (hk : row.kind = .flag bit) (h0 : bufRead s row.off = some b0) :
    fieldValue s row = some (.flag (bitTest b0 bit)) := by
  simp [fieldValue, hk, h0]

theorem fieldValue_u8 (hk : row.kind = .u8) (h0 : bufRead s row.off = some b0) :
    fieldValue s row = some (.u8 b0) := by
  simp [fieldValue, hk, h0]

theorem fieldValue_i8 (hk : row.kind = .i8) (h0 : bufRead s row.off = some b0) :
    fieldValue s row = some (.i8 b0) := by
  simp [fieldValue, hk, h0]

theorem fieldValue_u16 (hk : row.kind = .u16) (h0 : bufRead s row.off = some b0)
    (h1 : bufRead s (row.off + 1) = some b1) :
    fieldValue s row = some (.u16 (BitVec.ofNat 16 (join16 s.params.pktOrd b0 b1))) := by
  simp [fieldValue, hk, read16_some h0 h1]

theorem fieldValue_i16 (hk : row.kind = .i16) (h0 : bufRead s row.off = some b0)
    (h1 : bufRead s (row.off + 1) = some b1) :
    fieldValue s row = some (.i16 (BitVec.ofNat 16 (join16 s.params.pktOrd b0 b1))) := by
  simp [fieldValue, hk, read16_some h0 h1]

end

/-- A 16-bit pattern of two joined bytes is their number. -/
theorem toNat_ofNat_join16 (ord : ByteOrder) (b0 b1 : Byte) :
    (BitVec.ofNat 16 (join16 ord b0 b1)).toNat = join16 ord b0 b1 :=
  Nat.mod_eq_of_lt (join16_lt ord b0 b1)

theorem bitTest_eq_decide (b : Byte) (bit : Fin 8) :
    bitTest b bit = decide (b.toNat / 2 ^ bit.val % 2 = 1) := by
  rw [← bitTest_toNat b bit.isLt]
  cases bitTest b bit <;> rfl

theorem zext_eq_uint (n u : Nat) : zext n u = uint n u := by
  rw [uint, ← Int.natCast_mod, Int.toNat_natCast, zext]

/-- The codec operation of a row's kind writes the pattern of the row's value (R141). -/
theorem exec_rowOperation {s : State} {row : FieldRow} (hc : BufferCoherent s)
    (hl : row.off + row.kind.width ≤ s.len) (hf : s.status.faulted = false) {v : FieldVal}
    (hv : fieldValue s row = some v) :
    exec (rowOperation s.params row) s =
      returnOk (writeRes (uint s.params.resW (fieldNum v)) s) := by
  cases hk : row.kind with
  | flag bit =>
    rw [hk] at hl
    obtain ⟨b, hb⟩ := hc.content (off := row.off) hl
    obtain rfl : .flag (bitTest b bit) = v := by simpa [fieldValue_flag hk hb] using hv
    have run : exec (rowOperation s.params row) s =
        returnOk (writeRes (zext s.params.resW (if bitTest b bit then 1 else 0)) s) := by
      rw [rowOperation, hk]
      exact checkedRead_in hf hl hb
    rw [run, zext_eq_uint, fieldNum, Nat.cast_ite, Nat.cast_one, Nat.cast_zero]
  | u8 =>
    rw [hk] at hl
    obtain ⟨b, hb⟩ := hc.content (off := row.off) hl
    obtain rfl : .u8 b = v := by simpa [fieldValue_u8 hk hb] using hv
    have run : exec (rowOperation s.params row) s =
        returnOk (writeRes (zext s.params.resW b.toNat) s) := by
      rw [rowOperation, hk]
      exact checkedRead_in hf hl hb
    rw [run, zext_eq_uint, fieldNum]
  | i8 =>
    rw [hk] at hl
    obtain ⟨b, hb⟩ := hc.content (off := row.off) hl
    obtain rfl : .i8 b = v := by simpa [fieldValue_i8 hk hb] using hv
    rw [rowOperation, hk]
    exact checkedRead_in hf hl hb
  | u16 =>
    rw [hk] at hl
    obtain ⟨b0, b1, h0, h1, hu⟩ := hc.content16 s.params.pktOrd hl
    obtain rfl : .u16 _ = v := by simpa [fieldValue_u16 hk h0 h1] using hv
    have run : exec (rowOperation s.params row) s =
        returnOk (writeRes (zext s.params.resW (join16 s.params.pktOrd b0 b1)) s) := by
      rw [rowOperation, hk]
      exact checkedRead_in hf hl hu
    rw [run, zext_eq_uint, fieldNum, toNat_ofNat_join16]
  | i16 =>
    rw [hk] at hl
    obtain ⟨b0, b1, h0, h1, hu⟩ := hc.content16 s.params.pktOrd hl
    obtain rfl : .i16 _ = v := by simpa [fieldValue_i16 hk h0 h1] using hv
    rw [rowOperation, hk, fieldNum, toNat_ofNat_join16]
    exact checkedRead_in hf hl hu

/-! ### The bytes a field depends on -/

/-- Records of one table agree in a field where its rows have equal values, and where it has none. -/
theorem recordField_congr {s t : State} {rows : List FieldRow} {rec rec' : Record} {x : FieldName}
    (hs : fieldsOf s rows = some rec) (ht : fieldsOf t rows = some rec')
    (h : ∀ r ∈ rows, r.name = x → fieldValue t r = fieldValue s r) :
    recordField rec' x = recordField rec x := by
  induction rows generalizing rec rec' with
  | nil => cases hs; cases ht; rfl
  | cons r rows ih =>
    obtain ⟨v, rest, hv, hrest, rfl⟩ := fieldsOf_cons hs
    obtain ⟨v', rest', hv', hrest', rfl⟩ := fieldsOf_cons ht
    by_cases hx : x = r.name
    · have hvv : v' = v := by simpa [hv, hv'] using h r (by simp) hx.symm
      simp [recordField, hx, hvv]
    · simpa [recordField, hx] using ih hrest hrest' fun a ha => h a (by simp [ha])

/-- Under an accepted table no row's value depends on the unused bytes (R133, R144). -/
theorem fieldsOf_of_eq_off_unusedBytes {s t : State} (hp : fieldTableOk s.params = true)
    (ho : t.params.pktOrd = s.params.pktOrd)
    (h : ∀ x, x ∉ Config.unusedBytes → bufRead t x = bufRead s x) :
    fieldsOf t s.params.fieldTable = fieldsOf s s.params.fieldTable := by
  refine fieldsOf_congr fun r hr => fieldValue_congr ho fun x hx => h x fun hu => ?_
  simp [(row_of_fieldTableOk hp hr).2 x hu] at hx

/-- Each infrared byte of R145 belongs to its own row alone. -/
theorem name_of_rowCovers_infrared {x : Nat} {n : FieldName}
    (hx : x = 10 ∧ n = .infraredOpcodes_omni ∨ x = 69 ∧ n = .infraredOpcodes_left ∨
      x = 70 ∧ n = .infraredOpcodes_right) :
    ∀ r ∈ defaultFieldTable, rowCovers r x = true → r.name = n := by
  obtain ⟨rfl, rfl⟩ | ⟨rfl, rfl⟩ | ⟨rfl, rfl⟩ := hx <;> decide

end Sys2Proof.Machine

open Sys2Proof.Machine in
/-- Settles O24: a malformed packet ends with LAST and the outcome alone. -/
theorem malformedLengthWritesLastOnly : Obligations.MalformedLengthWritesLastOnly :=
  fun _ hf hl => ⟨_, exec_decode_malformed hf hl, rfl, rfl, rfl, rfl, rfl, rfl, rfl, rfl, rfl, hf⟩

open Sys2Proof.Machine in
/-- Settles O23: the record of the rows' values, then the tracker update with its two counts. -/
theorem packetDecodeResult : Obligations.PacketDecodeResult := by
  refine fun s hc hp hf => ⟨fun hl => ?_, exec_decode_malformed hf, rfl⟩
  obtain ⟨rec, l, r, hrec, h_l, h_r, run⟩ := exec_decode_packet hp hc hf hl
  have hok := fieldTableOk_of_paramsOk hp
  refine ⟨rec, l, r, recordTyped_fieldsOf hrec, fun row hrow => ?_, recordField_of_recordCount h_l,
    recordField_of_recordCount h_r, ⟨_, run, rfl⟩, fun hl_lt hr_lt => ?_⟩
  · obtain ⟨v, hv⟩ := fieldValue_exists hc (hl ▸ (row_of_fieldTableOk hok hrow).1)
    exact ⟨v, hv, (recordField_fieldsOf (rowsFit_of_fieldTableOk hok) hrec hrow).trans hv⟩
  · exact ⟨_, _, isDelta_delta s.params l.toNat s.prevL, isDelta_delta s.params r.toNat s.prevR,
      run.trans (returnOk_trackerUpdate_writeSens rec hl_lt hr_lt)⟩

open Sys2Proof.Machine in
/-- Settles O26: LOAD makes a coherent buffer of PKT_LEN bytes, and such a packet is accepted. -/
theorem decodeIsTotalOnPackets : Obligations.DecodeIsTotalOnPackets := by
  intro s bytes hp hf hlen
  have hcap : bytes.length ≤ s.params.bufCap := hlen.trans_le (packet_fits_of_paramsOk hp)
  obtain ⟨rec, l, r, hrec, -, -, run⟩ :=
    exec_decode_packet (s := writeBuf bytes s) hp (bufferCoherent_writeBuf hcap) hf hlen
  exact ⟨_, _, perform_load hcap, run, rfl, rfl, recordTyped_fieldsOf hrec⟩

open Sys2Proof.Machine in
/-- Settles O27: the value by the row's kind; the operation reads the same bytes and writes the number's pattern. -/
theorem fieldValueByKind : Obligations.FieldValueByKind := by
  intro s row hc hl hf
  obtain ⟨v, hv⟩ := fieldValue_exists hc hl
  have value {w : FieldVal} (hw : fieldValue s row = some w) : v = w :=
    Option.some.inj (hv.symm.trans hw)
  refine ⟨v, hv, fun b0 h0 => ⟨fun bit hk => ?_, fun hk => ?_, fun hk => ?_, fun b1 h1 => ?_⟩,
    _, exec_rowOperation hc hl hf hv, rfl⟩
  · rw [value (fieldValue_flag hk h0), bitTest_eq_decide]
  · obtain rfl := value (fieldValue_u8 hk h0)
    exact ⟨rfl, rfl⟩
  · obtain rfl := value (fieldValue_i8 hk h0)
    exact ⟨rfl, sint_8 b0.toNat⟩
  · have num := toNat_ofNat_join16 s.params.pktOrd b0 b1
    refine ⟨fun hk => ?_, fun hk => ?_⟩
    · obtain rfl := value (fieldValue_u16 hk h0 h1)
      exact ⟨rfl, congrArg Nat.cast num⟩
    · obtain rfl := value (fieldValue_i16 hk h0 h1)
      exact ⟨rfl, (congrArg (sint 16) num).trans (sint_16 _)⟩

open Sys2Proof Sys2Proof.Machine in
/-- Settles O29: no row covers an unused byte, so both records are the same and so are their counts. -/
theorem unusedBytesAreSkipped : Obligations.UnusedBytesAreSkipped := by
  intro s s' hpar hp hc hc' hf hf' hl hl' hL hR hbytes
  obtain ⟨rec, l, r, hrec, h_l, h_r, run⟩ := exec_decode_packet hp hc hf hl
  have same : fieldsOf s' s.params.fieldTable = fieldsOf s s.params.fieldTable :=
    fieldsOf_of_eq_off_unusedBytes (fieldTableOk_of_paramsOk hp) (congrArg Params.pktOrd hpar.symm)
      fun x hx => by
        simp only [Config.unusedBytes, List.mem_cons, List.not_mem_nil, or_false, not_or] at hx
        obtain ⟨h9, h36, h37, h38⟩ := hx
        exact (hbytes x h9 h36 h37 h38).symm
  have run' := exec_decode_of_fieldsOf hf' (hpar ▸ hl') (hpar ▸ same.trans hrec) h_l h_r
  exact ⟨_, _, run, run', by simp [hpar, hL, hR]⟩

open Sys2Proof Sys2Proof.Machine in
/-- Settles O30: the three rows of the default table, and no other row covers one of their bytes. -/
theorem infraredOffsets : Obligations.InfraredOffsets := by
  intro s hp htab hc hf hl
  obtain ⟨rec, _, _, hrec, -, -, run⟩ := exec_decode_packet hp hc hf hl
  have field {row : FieldRow} (h : row ∈ defaultFieldTable) :
      recordField rec row.name = fieldValue s row :=
    recordField_fieldsOf (rowsFit_of_fieldTableOk (fieldTableOk_of_paramsOk hp)) hrec (htab ▸ h)
  refine ⟨_, run, field (row := ⟨.infraredOpcodes_omni, 10, .u8⟩) (by decide),
    field (row := ⟨.infraredOpcodes_left, 69, .u8⟩) (by decide),
    field (row := ⟨.infraredOpcodes_right, 70, .u8⟩) (by decide), ?_⟩
  intro s' x n hx hpar hc' hf' hl' hbytes
  obtain ⟨rec', _, _, hrec', -, -, run'⟩ :=
    exec_decode_packet (hpar ▸ hp) hc' hf' (hl'.trans (hpar ▸ hl))
  refine ⟨_, run', fun m hm => recordField_congr hrec (hpar ▸ hrec') fun r hr hrm => ?_⟩
  refine fieldValue_congr (congrArg Params.pktOrd hpar) fun y hy => hbytes y fun hyx => hm ?_
  exact hrm.symm.trans (name_of_rowCovers_infrared hx r (htab ▸ hr) (hyx ▸ hy))

end

section
/-! PROOFS. The wraparound tracker (R171 to R175): how TRKUPD ends, what it writes, and which steps write the tracker's
state. -/

namespace Sys2Proof.Machine

/-- The three cases of R171 exclude each other when WRAP_THRESH > 0, so a channel has one delta. -/
theorem IsDelta.unique {p : Params} (hp : 0 < p.wrapThresh) {raw prev : Nat} {d e : Int}
    (hd : IsDelta p raw prev d) (he : IsDelta p raw prev e) : d = e := by
  unfold IsDelta at he
  obtain ⟨hw, rfl⟩ | ⟨hw, rfl⟩ | ⟨hlt, hgt, rfl⟩ := hd
  · omega
  · omega
  · omega

/-- What R171's three cases give is what the model computes. -/
theorem IsDelta.eq_delta {p : Params} (hp : 0 < p.wrapThresh) {raw prev : Nat} {d : Int}
    (h : IsDelta p raw prev d) : d = delta p raw prev :=
  h.unique hp (isDelta_delta p raw prev)

/-! ### How TRKUPD ends -/

theorem exec_trkupd_written {s : State} (hf : s.status.faulted = false) (h0 : s.status.av0 = true)
    (h1 : s.status.av1 = true) : exec .trkupd s = returnOk (trackerUpdate s.arg0 s.arg1 s) := by
  rw [exec, execTrkupd, whenAccepted_clear hf, h0, h1, Bool.and_self, whenWritten_true]

theorem exec_trkupd_unwritten {s : State} (hf : s.status.faulted = false)
    (h : s.status.av0 = false ∨ s.status.av1 = false) :
    exec .trkupd s = .next (faultTaken .unwrittenArg s) := by
  rw [exec, execTrkupd, whenAccepted_clear hf, Bool.and_eq_false_iff.mpr h, whenWritten_false,
    raiseFault_eq_faultTaken]

/-- The end of an update whose counts fit CNT_W: the tracker, LAST and the outcome, nothing else (R172, R173). -/
theorem returnOk_trackerUpdate {l r : BitVec 16} {s : State} (h_l : l.toNat < 2 ^ s.params.cntW)
    (h_r : r.toNat < 2 ^ s.params.cntW) :
    returnOk (trackerUpdate l r s) = .next { s with
      prevL := l.toNat
      prevR := r.toNat
      dl := sext s.params.resW (delta s.params l.toNat s.prevL)
      dr := sext s.params.resW (delta s.params r.toNat s.prevR)
      status := { s.status with dv := true, phase := .tracking, last := .ok }
      replies := .outcome .ok :: s.replies } := by
  rw [trackerUpdate, countOf_of_lt h_l, countOf_of_lt h_r]
  rfl

/-! ### Which steps write the tracker's state (R175) -/

/-- PREVL, PREVR, DL, DR, DV and PHASE: the state that R175 speaks of. -/
def trackerState (s : State) : Nat × Nat × Nat × Nat × Bool × Phase :=
  (s.prevL, s.prevR, s.dl, s.dr, s.status.dv, s.status.phase)

theorem trackerState_ne_iff (s t : State) : trackerState t ≠ trackerState s ↔
    t.prevL ≠ s.prevL ∨ t.prevR ≠ s.prevR ∨ t.dl ≠ s.dl ∨ t.dr ≠ s.dr ∨
      t.status.dv ≠ s.status.dv ∨ t.status.phase ≠ s.status.phase := by
  simp only [trackerState, ne_eq, Prod.mk.injEq, Classical.not_and_iff_not_or_not]

@[simp] theorem trackerState_writeRes (v : Nat) (s : State) :
    trackerState (writeRes v s) = trackerState s := rfl

@[simp] theorem trackerState_writeOut (hi lo : Byte) (s : State) :
    trackerState (writeOut hi lo s) = trackerState s := rfl

@[simp] theorem trackerState_writeBuf (bytes : List Byte) (s : State) :
    trackerState (writeBuf bytes s) = trackerState s := rfl

@[simp] theorem trackerState_writeArg (a : ArgName) (v : BitVec 16) (s : State) :
    trackerState (writeArg a v s) = trackerState s := by
  cases a <;> rfl

@[simp] theorem trackerState_reply (r : Reply) (s : State) :
    trackerState (reply r s) = trackerState s := rfl

@[simp] theorem trackerState_conclude_setLast (o : OpOutcome) (l : Last) (s : State) :
    trackerState (conclude o (setLast l s.status) s) = trackerState s := rfl

@[simp] theorem trackerState_conclude_setFault (o : OpOutcome) (c : FaultCause) (s : State) :
    trackerState (conclude o (setFault c s.status) s) = trackerState s := rfl

/-- The operations that run the tracker from `s`, once they return Ok: TRKUPD, and DECODE of a packet's length (R130, R172). -/
def RunsTracker (i : Instr) (s : State) : Prop :=
  i = .trkupd ∨ i = .decode ∧ s.len = s.params.pktLen

/-- An effect runs the tracker or leaves its state alone: the codec writes RES or OUT. -/
theorem Effect.runsTracker_of_ne {i : Instr} {s t : State} (h : Effect i s t)
    (ht : trackerState t ≠ trackerState s) : RunsTracker i s := by
  cases h with
  | enc16be => simp at ht
  | dec16 | dec16u | dec8 | dec8u | bitx => simp at ht
  | decode hl => exact .inr ⟨rfl, hl⟩
  | trkupd => exact .inl rfl

/-- Of the four ways an operation ends, only Ok can change the tracker's state. -/
theorem Ends.runsTracker_of_ne {i : Instr} {s t : State} (h : Ends i s t)
    (ht : trackerState t ≠ trackerState s) :
    t.replies = .outcome .ok :: s.replies ∧ RunsTracker i s := by
  cases h with
  | notAccepted hf => simp at ht
  | fault hf c => simp at ht
  | malformed hf hi hl => simp at ht
  | ok hf he =>
    rw [trackerState_conclude_setLast] at ht
    exact ⟨by rw [conclude_replies, he.replies_eq], he.runsTracker_of_ne ht⟩

theorem trackerState_of_illegalWord {s t : State} (h : illegalWord s = .next t) :
    trackerState t = trackerState s := by
  obtain ⟨-, rfl⟩ | ⟨-, rfl⟩ := illegalWord_next h
  · exact trackerState_reply _ s
  · exact trackerState_conclude_setFault _ _ s

/-- Of the host's actions only reset and a word that runs the tracker change the tracker's state (R175). -/
theorem perform_of_trackerState_ne {a : HostAction} {s t : State} (h : perform a s = .next t)
    (ht : trackerState t ≠ trackerState s) :
    a = .reset ∨ ∃ w i, a = .issue w ∧ decodeWord w = .ok i ∧
      t.replies = .outcome .ok :: s.replies ∧ RunsTracker i s := by
  obtain ⟨w, i, ha, hd, hx⟩ | ⟨_, _, -, -, hx⟩ | ⟨_, -, -, rfl⟩ | ⟨_, _, -, -, rfl⟩ | ⟨_, -, rfl⟩ |
    ⟨ha, -⟩ := perform_next h
  · exact .inr ⟨w, i, ha, hd, (exec_ends hx).runsTracker_of_ne ht⟩
  · exact absurd (trackerState_of_illegalWord hx) ht
  · simp at ht
  · simp at ht
  · simp at ht
  · exact .inl ha

end Sys2Proof.Machine

open Sys2Proof.Machine in
/-- Settles O34: the stated deltas are the ones the model computes, and counts of CNT_W bits are taken as they are. -/
theorem trackerUpdateResult : Obligations.TrackerUpdateResult := by
  refine fun s dl dr hf hp => ⟨fun h0 h1 h_l h_r hdl hdr => ?_, exec_trkupd_unwritten hf, rfl⟩
  rw [exec_trkupd_written hf h0 h1, returnOk_trackerUpdate h_l h_r, hdl.eq_delta hp, hdr.eq_delta hp]
  rfl

open Sys2Proof.Machine in
/-- Settles O37: the pattern in DL is of the delta of ARG0's count from PREVL, the one in DR of ARG1's from PREVR. -/
theorem trackerChannelsAreIndependent : Obligations.TrackerChannelsAreIndependent := by
  intro s s' hpar hf hf' h0 h1 h0' h1'
  refine ⟨_, _, exec_trkupd_written hf h0 h1, exec_trkupd_written hf' h0' h1', fun ha hv => ?_,
    fun ha hv => ?_, rfl⟩
  · simp [hpar, ha, hv]
  · simp [hpar, ha, hv]

open Sys2Proof Sys2Proof.Machine in
/-- Settles O38: an idle step keeps the whole state, and every action but those named keeps the tracker's. -/
theorem onlyTheTrackerWritesItsState : Obligations.OnlyTheTrackerWritesItsState := by
  intro s t h hne
  have ht : trackerState t ≠ trackerState s := (trackerState_ne_iff s t).mpr hne
  obtain ⟨-, rfl⟩ | ⟨e, rest, hp, -, he⟩ := step_next h
  · exact absurd rfl ht
  · refine ⟨e, rest, hp, ?_⟩
    obtain ha | ⟨w, i, ha, hd, hr, hi⟩ :=
      perform_of_trackerState_ne (s := { s with pending := rest }) he ht
    · exact .inl ha
    · refine .inr ⟨w, ha, hr, ?_⟩
      obtain rfl | ⟨rfl, hl⟩ := hi
      · exact .inl hd
      · exact .inr ⟨hd, hl⟩

end

section
/-! PROOFS. Outcomes and exceptions (R200 to R206): how a codec read ends on each side of LEN, the outcome of every word,
who returns `Err(MalformedPacket)`, and what acts on a faulted block. -/

namespace Sys2Proof

/-- The offset and the number of bytes that a codec operation reads (R102 to R106); the others name no offset. -/
def Instr.readSpan : Instr → Option (Nat × Nat)
  | .dec16 _ off | .dec16u _ off => some (off, 2)
  | .dec8 off | .dec8u off | .bitx off _ => some (off, 1)
  | .enc16be | .decode | .trkupd => none

namespace Machine

/-! ### Codec reads against LEN (R205) -/

section

variable {i : Instr} {off w : Nat} {s : State}

theorem exec_read_out (hi : i.readSpan = some (off, w)) (hf : s.status.faulted = false)
    (hl : s.len < off + w) : exec i s = .next (faultTaken .bounds s) := by
  cases i with
  | dec16 | dec16u | dec8 | dec8u | bitx => cases hi; exact checkedRead_out hf hl
  | enc16be | decode | trkupd => cases hi

theorem exec_read_in (hi : i.readSpan = some (off, w)) (hf : s.status.faulted = false)
    (hc : BufferCoherent s) (hl : off + w ≤ s.len) : ∃ v, exec i s = returnOk (writeRes v s) := by
  cases i with
  | dec16 ord | dec16u ord =>
    cases hi
    obtain ⟨_, _, _, _, hu⟩ := hc.content16 ord hl
    exact ⟨_, checkedRead_in hf hl hu⟩
  | dec8 | dec8u | bitx =>
    cases hi
    obtain ⟨_, hb⟩ := hc.content hl
    exact ⟨_, checkedRead_in hf hl hb⟩
  | enc16be | decode | trkupd => cases hi

theorem causeOf_of_readSpan (hi : i.readSpan = some (off, w)) :
    causeOf s i = if off + w > s.len then .fault .bounds else .ok := by
  cases i with
  | dec16 | dec16u | dec8 | dec8u | bitx => cases hi; rfl
  | enc16be | decode | trkupd => cases hi

end

/-! ### The outcome of a word (R200, R206) -/

/-- `r` is a next state in which `o` is the one outcome returned since `s`, and LAST is as R200 and R202 say. -/
def Answers (s : State) (o : OpOutcome) (r : Result) : Prop :=
  ∃ t, r = .next t ∧ t.replies = .outcome o :: s.replies ∧ t.status.last = lastAfter s o

theorem answers_notAccepted (s : State) : Answers s .notAccepted (notAccepted s) := ⟨_, rfl, rfl, rfl⟩

theorem answers_faultTaken (c : FaultCause) (s : State) :
    Answers s (.fault c) (.next (faultTaken c s)) := ⟨_, rfl, rfl, rfl⟩

theorem answers_returnOk {s s' : State} (h : s'.replies = s.replies) : Answers s .ok (returnOk s') :=
  ⟨_, rfl, congrArg _ h, rfl⟩

theorem answers_read {i : Instr} {off w : Nat} {s : State} (hi : i.readSpan = some (off, w))
    (hf : s.status.faulted = false) (hc : BufferCoherent s) : Answers s (causeOf s i) (exec i s) := by
  rw [causeOf_of_readSpan hi]
  split
  · next hl =>
    rw [exec_read_out hi hf hl]
    exact answers_faultTaken .bounds s
  · next hl =>
    obtain ⟨v, run⟩ := exec_read_in hi hf hc (Nat.not_lt.mp hl)
    rw [run]
    exact answers_returnOk rfl

theorem answers_enc16be {s : State} (hf : s.status.faulted = false) :
    Answers s (causeOf s .enc16be) (exec .enc16be s) := by
  obtain ⟨written, unwritten, -⟩ := encoderResult s hf
  rw [causeOf]
  split
  · next hw => exact ⟨_, written hw, rfl, rfl⟩
  · next hw => exact ⟨_, unwritten (eq_false_of_ne_true hw), rfl, rfl⟩

theorem answers_trkupd {s : State} (hf : s.status.faulted = false) :
    Answers s (causeOf s .trkupd) (exec .trkupd s) := by
  rw [causeOf]
  split
  · next hw =>
    obtain ⟨h0, h1⟩ := Bool.and_eq_true_iff.mp hw
    rw [exec_trkupd_written hf h0 h1]
    exact answers_returnOk rfl
  · next hw =>
    rw [exec_trkupd_unwritten hf (Bool.and_eq_false_iff.mp (eq_false_of_ne_true hw))]
    exact answers_faultTaken .unwrittenArg s

theorem answers_decode {s : State} (hp : paramsOk s.params = true) (hc : BufferCoherent s)
    (hf : s.status.faulted = false) : Answers s (causeOf s .decode) (exec .decode s) := by
  rw [causeOf]
  split
  · next hl => exact ⟨_, exec_decode_malformed hf hl, rfl, rfl⟩
  · next hl =>
    obtain ⟨_, _, _, -, -, -, run⟩ := exec_decode_packet hp hc hf (not_not.mp hl)
    rw [run]
    exact answers_returnOk rfl

/-- An accepted operation has the outcome that the list of causes gives it (R204, R206). -/
theorem exec_answers_causeOf {s : State} (i : Instr) (hp : paramsOk s.params = true)
    (hc : BufferCoherent s) (hf : s.status.faulted = false) :
    Answers s (causeOf s i) (exec i s) := by
  cases i with
  | enc16be => exact answers_enc16be hf
  | dec16 | dec16u | dec8 | dec8u | bitx => exact answers_read rfl hf hc
  | decode => exact answers_decode hp hc hf
  | trkupd => exact answers_trkupd hf

/-! ### The malformed packet (R203) -/

/-- Of the four ways an operation ends, only the malformed packet returns its error. -/
theorem Ends.malformed_of_replies {i : Instr} {s t : State} (h : Ends i s t)
    (hr : t.replies = .outcome .errMalformed :: s.replies) : i = .decode ∧ s.len ≠ s.params.pktLen := by
  cases h with
  | notAccepted hf => simp at hr
  | fault hf c => simp at hr
  | malformed hf hi hl => exact ⟨hi, hl⟩
  | ok hf he => simp [he.replies_eq] at hr

/-- A packet of PKT_LEN bytes decodes from every state that is not faulted, once it is loaded (R132). -/
theorem load_then_decode {s : State} {bytes : List Byte} (hp : paramsOk s.params = true)
    (hf : s.status.faulted = false) (hlen : bytes.length = s.params.pktLen) :
    ∃ u v : State, perform (.load bytes) s = .next u ∧ exec .decode u = .next v ∧
      v.replies = .outcome .ok :: u.replies ∧ v.status.sv = true := by
  have hcap : bytes.length ≤ s.params.bufCap := hlen.trans_le (packet_fits_of_paramsOk hp)
  obtain ⟨_, _, _, -, -, -, run⟩ :=
    exec_decode_packet (s := writeBuf bytes s) hp (bufferCoherent_writeBuf hcap) hf hlen
  exact ⟨_, _, perform_load hcap, run, rfl, rfl⟩

/-! ### A host write (R80) -/

theorem perform_wr {v : Int} (a : ArgName) (s : State) (lo : -32768 ≤ v) (hi : v ≤ 65535) :
    perform (.wr a v) s = .next (writeArg a (BitVec.ofNat 16 (uint 16 v)) s) :=
  if_pos (by simp [argInRange, lo, hi])

/-- The pattern that WR stores is the value modulo 65536. -/
theorem toNat_uint_16 (v : Int) : ((BitVec.ofNat 16 (uint 16 v)).toNat : Int) = v % 65536 := by
  rw [BitVec.toNat_ofNat, Nat.mod_eq_of_lt (uint_lt 16 v), uint]
  omega

end Machine

end Sys2Proof

open Sys2Proof Sys2Proof.Machine in
/-- Settles O43: a word is not accepted, or illegal, or has the outcome of its operation. -/
theorem outcomeOfEveryWord : Obligations.OutcomeOfEveryWord := by
  intro s w inv
  by_cases hf : s.status.faulted = true
  · obtain ⟨t, run, hr, hlast⟩ := answers_notAccepted s
    exact ⟨t, _, (perform_issue_faulted w hf).trans run, hr, hlast, by simp [hf]⟩
  have hf : s.status.faulted = false := eq_false_of_ne_true hf
  by_cases hi : wordIllegal w = true
  · have hd := decodeWord_of_wordIllegal hi
    obtain ⟨t, run, hr, hlast⟩ := answers_faultTaken .illegalOp s
    exact ⟨t, _, (perform_issue_error hd).trans ((illegalWord_clear hf).trans run), hr, hlast,
      by simp [hf, hd]⟩
  · obtain ⟨i, hd⟩ := (exists_decodeWord_ok_iff w).mpr (eq_false_of_ne_true hi)
    obtain ⟨t, run, hr, hlast⟩ := exec_answers_causeOf i inv.params inv.buffer hf
    exact ⟨t, _, (perform_issue_ok hd).trans run, hr, hlast, by simp [hf, hi, hd]⟩

open Sys2Proof Sys2Proof.Machine in
/-- Settles O20: a read that ends above LEN takes the fault, every other one writes RES and returns Ok. -/
theorem boundsFaultExactlyAboveLen : Obligations.BoundsFaultExactlyAboveLen := by
  intro s i off w hc hf hi
  have span : i.readSpan = some (off, w) := by
    obtain ⟨⟨_, rfl | rfl⟩, rfl⟩ | ⟨rfl | rfl | ⟨_, rfl⟩, rfl⟩ := hi <;> rfl
  have inside (hl : off + w ≤ s.len) :
      ∃ t, exec i s = .next t ∧ t.status.last = .ok ∧ t.status.faulted = false := by
    obtain ⟨v, run⟩ := exec_read_in span hf hc hl
    exact ⟨_, run, rfl, hf⟩
  refine ⟨⟨fun run => ?_, exec_read_out span hf⟩, inside⟩
  by_contra hl
  obtain ⟨t, ok, -, unfaulted⟩ := inside (Nat.not_lt.mp hl)
  obtain rfl : faultTaken .bounds s = t := by simpa [run] using ok
  simp [faultTaken] at unfaulted

open Sys2Proof.Machine in
/-- Settles O25: the error keeps the block unfaulted and its parameters, so the packet loaded next decodes. -/
theorem malformedPacketIsNotSticky : Obligations.MalformedPacketIsNotSticky := by
  refine ⟨fun i s t h hr => (exec_ends h).malformed_of_replies hr, fun s bytes hp hf hl hlen => ?_⟩
  have run := exec_decode_malformed hf hl
  obtain ⟨u, v, load, decode, hr, hsv⟩ := load_then_decode
    (s := { s with
      status := { s.status with last := .errMalformed }
      replies := .outcome .errMalformed :: s.replies }) hp hf hlen
  exact ⟨_, u, v, run, rfl, rfl, load, decode, hr, hsv⟩

open Sys2Proof.Machine in
/-- Settles O45: each action by its own rule, and FAULTED stays with every one but reset. -/
theorem faultedBlockAcceptsNoWord : Obligations.FaultedBlockAcceptsNoWord := by
  refine fun s hf => ⟨fun w => perform_issue_faulted w hf, fun bytes hcap => ?_, fun v lo hi => ?_,
    fun n => rfl, ⟨_, rfl, rfl⟩, fun a t h clear => ?_⟩
  · exact ⟨_, perform_load hcap, rfl, bufRead_writeBuf bytes s, rfl⟩
  · exact ⟨⟨_, perform_wr .arg0 s lo hi, toNat_uint_16 v, rfl⟩,
      ⟨_, perform_wr .arg1 s lo hi, toNat_uint_16 v, rfl⟩⟩
  · by_contra ha
    obtain ⟨still, -⟩ := perform_keeps_fault h hf ha
    simp [still] at clear

end

section
/-! PROOFS. Reset and the parameters (R230, R232): what a host read gives where a register holds no value, the block as reset
leaves it, and that no operation and no host action writes a parameter. -/

namespace Sys2Proof.Machine

/-- The valid or written bit a host read looks at (R24, R65); names without one always hold a value. -/
def ReadName.valid (st : Status) : ReadName → Bool
  | .arg0 => st.av0
  | .arg1 => st.av1
  | .res => st.rv
  | .out0 | .out1 => st.ov
  | .sens => st.sv
  | .dl | .dr => st.dv
  | .prevL | .prevR | .status | .field _ | .len | .buf _ => true

theorem ifValid_of_clear {valid : Bool} (h : valid = false) (v : ReadValue) : ifValid valid v = none :=
  if_neg (by simp [h])

/-- A register whose bit is clear gives the host no value, whatever pattern stands under it (R66). -/
theorem hostRead_eq_none {s : State} {n : ReadName} (h : n.valid s.status = false) :
    hostRead s n = none := by
  cases n with
  | arg0 | arg1 | res | out0 | out1 | sens | dl | dr => exact ifValid_of_clear h _
  | prevL | prevR | status | field | len | buf => cases h

theorem statusWord_reset : statusWord Status.reset = 0x0000 := by decide

theorem createBlock_of_ok {p : Params} (h : paramsOk p = true) :
    createBlock p = .next (State.resetWith p) := if_pos h

/-- The registers an operation writes are none of the parameters. -/
theorem Effect.params_eq {i : Instr} {s t : State} (h : Effect i s t) : t.params = s.params := by
  cases h <;> rfl

theorem Ends.params_eq {i : Instr} {s t : State} (h : Ends i s t) : t.params = s.params := by
  cases h with
  | notAccepted | fault | malformed => rfl
  | ok hf he => rw [conclude_params, he.params_eq]

theorem illegalWord_params {s t : State} (h : illegalWord s = .next t) : t.params = s.params := by
  obtain ⟨-, rfl⟩ | ⟨-, rfl⟩ := illegalWord_next h <;> rfl

/-- No word and no other host action, reset among them, writes a parameter (R232). -/
theorem perform_params {a : HostAction} {s t : State} (h : perform a s = .next t) :
    t.params = s.params := by
  obtain ⟨_, _, -, -, run⟩ | ⟨_, _, -, -, run⟩ | ⟨bytes, -, -, rfl⟩ | ⟨arg, v, -, -, rfl⟩ | ⟨n, -, rfl⟩ |
    ⟨-, rfl⟩ := perform_next h
  · exact (exec_ends run).params_eq
  · exact illegalWord_params run
  · exact writeBuf_params bytes s
  · exact writeArg_params arg _ s
  · exact reply_params _ s
  · exact resetBlock_params s

end Sys2Proof.Machine

open Sys2Proof.Machine in
/-- Settles O52: an idle step keeps the whole state, and every action of the host keeps the parameters. -/
theorem parametersAreFixed : Obligations.ParametersAreFixed := by
  intro s t h
  obtain ⟨-, rfl⟩ | ⟨e, rest, -, -, run⟩ := step_next h
  · rfl
  · exact perform_params (s := { s with pending := rest }) run

open Sys2Proof.Machine in
/-- Settles O46: the default parameters are accepted, LEN 0 leaves no content to read, and the reset STATUS has every valid
and written bit clear. -/
theorem resetLeavesResetValues : Obligations.ResetLeavesResetValues := by
  refine ⟨⟨_, createBlock_of_ok defaultParams_ok, rfl⟩, fun s => ⟨resetBlock s, rfl, ?_⟩⟩
  have noContent (x : Nat) : bufRead (resetBlock s) x = none := bufRead_of_ge (Nat.zero_le x)
  have noValue (n : ReadName) (h : n.valid Status.reset = false) : hostRead (resetBlock s) n = none :=
    hostRead_eq_none h
  exact ⟨rfl, noContent, rfl, rfl, rfl, statusWord_reset, noValue .arg0 rfl, noValue .arg1 rfl,
    noValue .res rfl, noValue .out0 rfl, noValue .out1 rfl, noValue .sens rfl, noValue .dl rfl,
    noValue .dr rfl, resetBlock_params s⟩

end

section
/-! PROOFS. Encode and decode are inverse to each other (R70 to R79): the word of a well-formed operation matches the
operation's own row and holds its operands, and a word that matches a row is the word of that row's operation. -/

namespace Sys2Proof

open Laws

/-! ### The fields of a word given by its number (R71) -/

theorem offField_ofNat (n : Nat) : offField (BitVec.ofNat 16 n) = n % 256 := by
  rw [offField_eq, BitVec.toNat_ofNat]
  omega

theorem bitField_ofNat (n : Nat) : bitField (BitVec.ofNat 16 n) = n / 256 % 8 := by
  rw [bitField_eq, BitVec.toNat_ofNat]
  omega

theorem ordField_ofNat (n : Nat) :
    ordField (BitVec.ofNat 16 n) = if n / 2048 % 2 = 0 then .le else .be := by
  rw [ordField_eq, BitVec.toNat_ofNat, show n % 2 ^ 16 / 2048 % 2 = n / 2048 % 2 by omega]

/-- Only the parity of the OP, at bit 12, stands between ORD and the rest of a 16-bit decode's word. -/
theorem ordField_of_op_ord_off (op : Nat) (ord : ByteOrder) {off : Nat} (h : off < 256) :
    ordField (BitVec.ofNat 16 (4096 * op + ordBits ord + off)) = ord := by
  rw [ordField_ofNat]
  cases ord with
  | le => exact if_pos (by simp only [ordBits]; omega)
  | be => exact if_neg (by simp only [ordBits]; omega)

theorem offField_of_op_ord_off (op : Nat) (ord : ByteOrder) {off : Nat} (h : off < 256) :
    offField (BitVec.ofNat 16 (4096 * op + ordBits ord + off)) = off := by
  rw [offField_ofNat]
  cases ord with
  | le | be => simp only [ordBits]; omega

/-! ### Decoding an encoded operation -/

theorem rowOf_mem_opTable (i : Instr) : EncodeMatchesRow.rowOf i ∈ opTable := by
  cases i <;> simp [EncodeMatchesRow.rowOf, opTable]

theorem rowMatches_encode {i : Instr} (h : i.wellFormed = true) :
    rowMatches (encode i) (EncodeMatchesRow.rowOf i) = true := by
  cases i with
  | enc16be => exact EncodeMatchesRow.enc16be h
  | dec16 ord off => exact EncodeMatchesRow.dec16 ord off h
  | dec16u ord off => exact EncodeMatchesRow.dec16u ord off h
  | dec8 off => exact EncodeMatchesRow.dec8 off h
  | dec8u off => exact EncodeMatchesRow.dec8u off h
  | bitx off bit => exact EncodeMatchesRow.bitx off bit h
  | decode => exact EncodeMatchesRow.decode h
  | trkupd => exact EncodeMatchesRow.trkupd h

/-- The fields of an operation's word are its operands, in range (R71, R72). -/
theorem operandsOf_encode {i : Instr} (h : i.wellFormed = true) :
    operandsOf (encode i) (EncodeMatchesRow.rowOf i).op = i := by
  cases i with
  | enc16be | decode | trkupd => rfl
  | dec16 ord off =>
    have hoff : off < 256 := of_decide_eq_true h
    exact congrArg₂ Instr.dec16 (ordField_of_op_ord_off 2 ord hoff) (offField_of_op_ord_off 2 ord hoff)
  | dec16u ord off =>
    have hoff : off < 256 := of_decide_eq_true h
    exact congrArg₂ Instr.dec16u (ordField_of_op_ord_off 3 ord hoff) (offField_of_op_ord_off 3 ord hoff)
  | dec8 off =>
    have hoff : off < 256 := of_decide_eq_true h
    exact congrArg Instr.dec8 ((offField_ofNat _).trans (by omega))
  | dec8u off =>
    have hoff : off < 256 := of_decide_eq_true h
    exact congrArg Instr.dec8u ((offField_ofNat _).trans (by omega))
  | bitx off bit =>
    obtain ⟨hoff, hbit⟩ : off < 256 ∧ bit < 8 := by simpa [Instr.wellFormed] using h
    exact congrArg₂ Instr.bitx ((offField_ofNat _).trans (by omega)) ((bitField_ofNat _).trans (by omega))

/-- The decoder reads back a well-formed operation from its word. -/
theorem decodeWord_encode {i : Instr} (h : i.wellFormed = true) : decodeWord (encode i) = .ok i := by
  rw [decodeWord_of_rowMatches (rowOf_mem_opTable i) (rowMatches_encode h), operandsOf_encode h]

/-! ### Encoding a decoded word -/

/-- A word that decodes matches a row, and is that row's operation with the word's own fields as operands. -/
theorem exists_rowMatches_of_decodeWord {w : Word} {i : Instr} (h : decodeWord w = .ok i) :
    ∃ r ∈ opTable, rowMatches w r = true ∧ i = operandsOf w r.op := by
  unfold decodeWord at h
  split at h
  · next r hf =>
    cases h
    exact ⟨r, List.mem_of_find?_eq_some hf, List.find?_some hf, rfl⟩
  · cases h

theorem wellFormed_operandsOf (w : Word) (op : Op) : (operandsOf w op).wellFormed = true := by
  have hoff : offField w < 256 := (w.extractLsb' 0 8).isLt
  have hbit : bitField w < 8 := (w.extractLsb' 8 3).isLt
  cases op with
  | enc16be | decode | trkupd => rfl
  | dec16 | dec16u | dec8 | dec8u => exact decide_eq_true hoff
  | bitx => simp [operandsOf, Instr.wellFormed, hoff, hbit]

theorem ordBits_ordField (w : Word) : ordBits (ordField w) = 2048 * (w.toNat / 2048 % 2) := by
  rw [ordField_eq]
  split
  · next h => rw [h]; rfl
  · next h => rw [Nat.mod_two_ne_zero.mp h]; rfl

theorem ofNat_eq_of_toNat_eq {w : Word} {n : Nat} (h : n = w.toNat) : BitVec.ofNat 16 n = w := by
  rw [h, BitVec.ofNat_toNat, BitVec.setWidth_eq]

/-- The mask of a row covers every bit outside its fields, so a word that matches is rebuilt from its fields (R73). -/
theorem encode_operandsOf {w : Word} {r : OpRow} (hr : r ∈ opTable) (h : rowMatches w r = true) :
    encode (operandsOf w r.op) = w := by
  have hm : w &&& r.mask = r.pattern := of_decide_eq_true h
  simp only [opTable, List.mem_cons, List.not_mem_nil, or_false] at hr
  obtain rfl | rfl | rfl | rfl | rfl | rfl | rfl | rfl := hr
  · exact hm.symm.trans (and_allBits w)
  · obtain ⟨hop, hbits⟩ := (rowMatches_dec16 w).mp hm
    exact ofNat_eq_of_toNat_eq (by rw [ordBits_ordField, offField_eq]; omega)
  · obtain ⟨hop, hbits⟩ := (rowMatches_dec16u w).mp hm
    exact ofNat_eq_of_toNat_eq (by rw [ordBits_ordField, offField_eq]; omega)
  · have hhigh := (rowMatches_dec8 w).mp hm
    exact ofNat_eq_of_toNat_eq (by rw [offField_eq]; omega)
  · have hhigh := (rowMatches_dec8u w).mp hm
    exact ofNat_eq_of_toNat_eq (by rw [offField_eq]; omega)
  · obtain ⟨hop, hord⟩ := (rowMatches_bitx w).mp hm
    exact ofNat_eq_of_toNat_eq (by rw [offField_eq, bitField_eq]; omega)
  · exact hm.symm.trans (and_allBits w)
  · exact hm.symm.trans (and_allBits w)

end Sys2Proof

open Sys2Proof in
/-- Settles O1: the word matches the operation's own row, and its fields are the operands. -/
theorem decodeOfEncodeIsIdentity : Obligations.DecodeOfEncodeIsIdentity :=
  fun _ h => decodeWord_encode h

open Sys2Proof in
/-- Settles O2: the word matches a row, and no bit of it lies outside the row's OP and fields. -/
theorem encodeOfDecodeIsIdentity : Obligations.EncodeOfDecodeIsIdentity := by
  intro w i h
  obtain ⟨r, hr, hm, rfl⟩ := exists_rowMatches_of_decodeWord h
  exact ⟨wellFormed_operandsOf w r.op, encode_operandsOf hr hm⟩

open Sys2Proof in
/-- Settles O7: each word is the encoding of its operation, which is well-formed. -/
theorem programWordsDecode : Obligations.ProgramWordsDecode :=
  ⟨decodeWord_encode (i := .enc16be) rfl, decodeWord_encode (i := .dec16 .be 0) rfl,
    decodeWord_encode (i := .dec16 .le 12) rfl, decodeWord_encode (i := .dec16u .le 52) rfl,
    decodeWord_encode (i := .dec8 21) rfl, decodeWord_encode (i := .dec8u 69) rfl,
    decodeWord_encode (i := .bitx 0 7) rfl, decodeWord_encode (i := .decode) rfl,
    decodeWord_encode (i := .trkupd) rfl⟩

end

section
/-! PROOFS. The codec's results (R100 to R114): each decode writes one number of its bytes, RES reads back as exactly that
number, signed and unsigned decodes differ by the range, and an encoded number decodes to itself or to its byte swap. -/

namespace Sys2Proof.Machine

/-! ### What a decode in bounds answers -/

section

variable {s : State} {ord : ByteOrder} {off u : Nat} {b : Byte}

theorem exec_dec16_in (hf : s.status.faulted = false) (hl : off + 2 ≤ s.len)
    (hu : read16 s ord off = some u) :
    exec (.dec16 ord off) s = returnOk (writeRes (sext s.params.resW (sint 16 u)) s) :=
  checkedRead_in hf hl hu

theorem exec_dec16u_in (hf : s.status.faulted = false) (hl : off + 2 ≤ s.len)
    (hu : read16 s ord off = some u) :
    exec (.dec16u ord off) s = returnOk (writeRes (zext s.params.resW u) s) :=
  checkedRead_in hf hl hu

theorem exec_dec8_in (hf : s.status.faulted = false) (hl : off + 1 ≤ s.len)
    (hb : bufRead s off = some b) :
    exec (.dec8 off) s = returnOk (writeRes (sext s.params.resW (sint 8 b.toNat)) s) :=
  checkedRead_in hf hl hb

theorem exec_dec8u_in (hf : s.status.faulted = false) (hl : off + 1 ≤ s.len)
    (hb : bufRead s off = some b) :
    exec (.dec8u off) s = returnOk (writeRes (zext s.params.resW b.toNat) s) :=
  checkedRead_in hf hl hb

theorem exec_bitx_in {bit : Nat} (hf : s.status.faulted = false) (hl : off + 1 ≤ s.len)
    (hb : bufRead s off = some b) :
    exec (.bitx off bit) s =
      returnOk (writeRes (zext s.params.resW (if bitTest b bit then 1 else 0)) s) :=
  checkedRead_in hf hl hb

theorem read16_lt (h : read16 s ord off = some u) : u < 65536 := by
  obtain ⟨b0, b1, -, -, rfl⟩ := read16_eq_some h
  exact join16_lt ord b0 b1

end

/-! ### Reading RES back (R110) -/

/-- From 18 bits on RES holds every number of 17 signed bits, so every codec result (R7). -/
theorem sint_sext_of_resW {n : Nat} {v : Int} (hn : 18 ≤ n) (lo : -65536 ≤ v) (hi : v < 65536) :
    sint n (sext n v) = v := by
  have hp : 2 ^ 17 ≤ 2 ^ (n - 1) := Nat.pow_le_pow_right Nat.two_pos (by omega)
  exact sint_sext (by omega) (by omega) (by omega)

theorem sint_zext_of_resW {n u : Nat} (hn : 18 ≤ n) (hu : u < 65536) : sint n (zext n u) = u := by
  rw [zext_eq_uint]
  exact sint_sext_of_resW hn (by omega) (by omega)

section

variable {s t : State} {ord : ByteOrder} {off u : Nat} {b : Byte}

/-- DEC16's RES reads back as the two's complement of its two bytes. -/
theorem exec_dec16_exact (hw : 18 ≤ s.params.resW) (hf : s.status.faulted = false)
    (hl : off + 2 ≤ s.len) (hu : read16 s ord off = some u) :
    ∃ t, exec (.dec16 ord off) s = .next t ∧ sint s.params.resW t.res = sint 16 u := by
  obtain ⟨lo, hi⟩ := sint16_bounds (read16_lt hu)
  exact ⟨_, exec_dec16_in hf hl hu, sint_sext_of_resW hw (by omega) (by omega)⟩

theorem exec_dec16u_exact (hw : 18 ≤ s.params.resW) (hf : s.status.faulted = false)
    (hl : off + 2 ≤ s.len) (hu : read16 s ord off = some u) :
    ∃ t, exec (.dec16u ord off) s = .next t ∧ sint s.params.resW t.res = u :=
  ⟨_, exec_dec16u_in hf hl hu, sint_zext_of_resW hw (read16_lt hu)⟩

/-- DEC8's RES reads back as the two's complement of its byte. -/
theorem exec_dec8_exact (hw : 18 ≤ s.params.resW) (hf : s.status.faulted = false)
    (hl : off + 1 ≤ s.len) (hb : bufRead s off = some b) :
    ∃ t, exec (.dec8 off) s = .next t ∧ sint s.params.resW t.res = sint 8 b.toNat := by
  obtain ⟨lo, hi⟩ := sint8_bounds b.isLt
  exact ⟨_, exec_dec8_in hf hl hb, sint_sext_of_resW hw (by omega) (by omega)⟩

theorem exec_dec8u_exact (hw : 18 ≤ s.params.resW) (hf : s.status.faulted = false)
    (hl : off + 1 ≤ s.len) (hb : bufRead s off = some b) :
    ∃ t, exec (.dec8u off) s = .next t ∧ sint s.params.resW t.res = b.toNat :=
  ⟨_, exec_dec8u_in hf hl hb, sint_zext_of_resW hw (by have := b.isLt; omega)⟩

theorem exec_bitx_exact {bit : Nat} (hbit : bit < 8) (hw : 18 ≤ s.params.resW)
    (hf : s.status.faulted = false) (hl : off + 1 ≤ s.len) (hb : bufRead s off = some b) :
    ∃ t, exec (.bitx off bit) s = .next t ∧
      sint s.params.resW t.res = (b.toNat / 2 ^ bit % 2 : Nat) := by
  refine ⟨_, exec_bitx_in hf hl hb, ?_⟩
  rw [bitTest_toNat b hbit]
  exact sint_zext_of_resW hw (by omega)

end

/-! ### What a codec result depends on (R114) -/

/-- An accepted read in bounds that answers has found content, and its result is a function of that content. -/
theorem checkedRead_res {s t : State} {off w : Nat} {α : Type} {x : Option α} {f : α → Nat}
    (hf : s.status.faulted = false) (hl : off + w ≤ s.len)
    (h : whenAccepted s (whenInBounds off w s (withContent x fun a => returnOk (writeRes (f a) s))) =
      .next t) : some t.res = x.map f := by
  rw [whenAccepted_clear hf, whenInBounds_in hl] at h
  cases x with
  | none => cases h
  | some a => cases h; rfl

section

variable {s s' t t' : State} {off : Nat}

/-- Two reads of equal content have equal results. -/
theorem checkedRead_res_congr {w : Nat} {α : Type} {x y : Option α} {f : α → Nat}
    (hf : s.status.faulted = false) (hf' : s'.status.faulted = false)
    (hl : off + w ≤ s.len) (hl' : off + w ≤ s'.len) (hxy : x = y)
    (h : whenAccepted s (whenInBounds off w s (withContent x fun a => returnOk (writeRes (f a) s))) =
      .next t)
    (h' : whenAccepted s'
      (whenInBounds off w s' (withContent y fun a => returnOk (writeRes (f a) s'))) = .next t') :
    t.res = t'.res := by
  subst hxy
  exact Option.some.inj ((checkedRead_res hf hl h).trans (checkedRead_res hf' hl' h').symm)

theorem read16_congr (ord : ByteOrder)
    (h : ∀ x, off ≤ x → x < off + 2 → bufRead s x = bufRead s' x) :
    read16 s ord off = read16 s' ord off := by
  simp only [read16, h off (by omega) (by omega), h (off + 1) (by omega) (by omega)]

end

/-! ### Encode, load back and decode (R111, R112) -/

/-- The two bytes that ENC16BE makes of a pattern, high byte first, are the pattern. -/
theorem highByte_lowByte (p : Word) :
    256 * (p.extractLsb' 8 8).toNat + (p.extractLsb' 0 8).toNat = p.toNat := by
  rw [highByte_eq, lowByte_eq, BitVec.toNat_ofNat, BitVec.toNat_ofNat]
  have := p.isLt
  omega

/-- An int16 is the two's complement of its own pattern. -/
theorem sint_16_of_emod {u : Nat} {v : Int} (hu : (u : Int) = v % 65536) (lo : -32768 ≤ v)
    (hi : v ≤ 32767) : sint 16 u = v := by
  rw [sint_16]
  split <;> omega

/-- ENC16BE of an operand the host has just written: its high byte in OUT0, its low byte in OUT1. -/
theorem exec_enc16be_writeArg {s : State} (p : Word) (hf : s.status.faulted = false) :
    exec .enc16be (writeArg .arg0 p s) =
      returnOk (writeOut (p.extractLsb' 8 8) (p.extractLsb' 0 8) (writeArg .arg0 p s)) := by
  rw [exec, execEnc16be, whenAccepted_clear (by simpa using hf)]
  rfl

/-- DEC16 at offset 0 of the two bytes just loaded. -/
theorem exec_dec16_writeBuf {s : State} (ord : ByteOrder) (b0 b1 : Byte)
    (hf : s.status.faulted = false) :
    exec (.dec16 ord 0) (writeBuf [b0, b1] s) =
      returnOk (writeRes (sext s.params.resW (sint 16 (join16 ord b0 b1))) (writeBuf [b0, b1] s)) :=
  exec_dec16_in hf (Nat.le_refl 2)
    (read16_some (bufRead_writeBuf [b0, b1] s 0) (bufRead_writeBuf [b0, b1] s 1))

/-- The steps of R111 and R112, with the byte order of the last one open: RES is the 16-bit number of OUT0 and OUT1 in that
order, and high byte first they are the value's pattern. -/
theorem encode_load_decode {s : State} {v : Int} (ord : ByteOrder) (hf : s.status.faulted = false)
    (hcap : 2 ≤ s.params.bufCap) (lo : -32768 ≤ v) (hi : v ≤ 32767) :
    ∃ s1 s2 s3 s4 : State,
      perform (.wr .arg0 v) s = .next s1 ∧ exec .enc16be s1 = .next s2 ∧
      perform (.load [s2.out0, s2.out1]) s2 = .next s3 ∧ exec (.dec16 ord 0) s3 = .next s4 ∧
      s4.res = sext s.params.resW (sint 16 (join16 ord s2.out0 s2.out1)) ∧
      sint 16 (join16 .be s2.out0 s2.out1) = v := by
  have hjoin := highByte_lowByte (BitVec.ofNat 16 (uint 16 v))
  refine ⟨_, _, _, _, perform_wr .arg0 s lo (by omega), exec_enc16be_writeArg _ hf,
    perform_load hcap, exec_dec16_writeBuf ord _ _ hf, rfl, ?_⟩
  exact sint_16_of_emod ((congrArg Nat.cast hjoin).trans (toNat_uint_16 v)) lo hi

/-- Different 16-bit patterns are different numbers. -/
theorem sint_16_inj {u w : Nat} (hu : u < 65536) (hw : w < 65536) : sint 16 u = sint 16 w ↔ u = w := by
  rw [sint_16, sint_16]
  split <;> split <;> omega

/-- The two byte orders read the same number exactly from two equal bytes. -/
theorem join16_le_eq_be_iff (b0 b1 : Byte) : join16 .le b0 b1 = join16 .be b0 b1 ↔ b0 = b1 := by
  rw [← BitVec.toNat_inj, join16, join16]
  omega

end Sys2Proof.Machine

open Sys2Proof.Machine in
/-- Settles O14: each decode reads back as its number, which the widths of its bytes bound. -/
theorem codecResultsAreExact : Obligations.CodecResultsAreExact := by
  intro s off hw hf
  refine ⟨fun hl ord u hu => ⟨?_, ?_⟩, fun hl b hb => ⟨?_, ?_, fun bit hbit => ?_⟩⟩
  · obtain ⟨t, run, hres⟩ := exec_dec16_exact hw hf hl hu
    have hlt := read16_lt hu
    rw [sint_16] at hres
    exact ⟨t, run, hres, by rw [hres]; split <;> omega, by rw [hres]; split <;> omega⟩
  · obtain ⟨t, run, hres⟩ := exec_dec16u_exact hw hf hl hu
    have hlt := read16_lt hu
    exact ⟨t, run, hres, by omega, by omega⟩
  · obtain ⟨t, run, hres⟩ := exec_dec8_exact hw hf hl hb
    have hlt := b.isLt
    rw [sint_8] at hres
    exact ⟨t, run, hres, by rw [hres]; split <;> omega, by rw [hres]; split <;> omega⟩
  · obtain ⟨t, run, hres⟩ := exec_dec8u_exact hw hf hl hb
    have hlt := b.isLt
    exact ⟨t, run, hres, by omega, by omega⟩
  · obtain ⟨t, run, hres⟩ := exec_bitx_exact hbit hw hf hl hb
    exact ⟨t, run, hres, by omega, by omega⟩

open Sys2Proof.Machine in
/-- Settles O15: high byte first the two bytes are the value's own pattern. -/
theorem encodeThenDecodeBigEndian : Obligations.EncodeThenDecodeBigEndian := by
  intro s v hf hcap hw lo hi
  obtain ⟨s1, s2, s3, s4, h1, h2, h3, h4, hres, hbe⟩ := encode_load_decode .be hf hcap lo hi
  rw [hbe] at hres
  refine ⟨s1, s2, s3, s4, h1, h2, h3, h4, hres, ?_⟩
  rw [hres, sint_sext_of_resW hw (by omega) (by omega)]

open Sys2Proof.Machine in
/-- Settles O16: low byte first the number has its bytes swapped, and 16-bit patterns are numbers one to one. -/
theorem encodeThenDecodeLittleEndianSwaps : Obligations.EncodeThenDecodeLittleEndianSwaps := by
  intro s v hf hcap hw lo hi
  obtain ⟨s1, s2, s3, s4, h1, h2, h3, h4, hres, hbe⟩ := encode_load_decode .le hf hcap lo hi
  have hle := join16_lt .le s2.out0 s2.out1
  obtain ⟨hlo, hhi⟩ := sint16_bounds hle
  have hback : sint s.params.resW s4.res = sint 16 (join16 .le s2.out0 s2.out1) := by
    rw [hres, sint_sext_of_resW hw (by omega) (by omega)]
  refine ⟨s1, s2, s3, s4, h1, h2, h3, h4, ?_, ?_⟩
  · rw [hback, join16, Nat.add_comm]
  · rw [hback, ← hbe, sint_16_inj hle (join16_lt .be _ _), join16_le_eq_be_iff]

open Sys2Proof.Machine in
/-- Settles O17: both decodes read back exactly, and two's complement is the number or the number less the range. -/
theorem signedAndUnsignedAgree : Obligations.SignedAndUnsignedAgree := by
  intro s off hw hf
  refine ⟨fun ord u hl hu => ?_, fun b hl hb => ?_⟩
  · obtain ⟨t, run, hres⟩ := exec_dec16_exact hw hf hl hu
    obtain ⟨t', run', hres'⟩ := exec_dec16u_exact hw hf hl hu
    refine ⟨t, t', run, run', ?_⟩
    rw [hres, hres', sint_16]
    split <;> omega
  · obtain ⟨t, run, hres⟩ := exec_dec8_exact hw hf hl hb
    obtain ⟨t', run', hres'⟩ := exec_dec8u_exact hw hf hl hb
    refine ⟨t, t', run, run', ?_⟩
    rw [hres, hres', sint_8]
    split <;> omega

open Sys2Proof.Machine in
/-- Settles O18: a read that answers has found the content it names, and RES is a function of that and of RES_W. -/
theorem codecReadsOnlyItsBytes : Obligations.CodecReadsOnlyItsBytes := by
  intro s s' t t' off hw hf hf'
  refine ⟨fun hl hl' hbytes ord => ?_, fun hl hl' hbyte => ?_⟩
  · have hread := read16_congr ord hbytes
    simp only [exec, execDec16, execDec16u, hw]
    exact ⟨checkedRead_res_congr hf hf' hl hl' hread, checkedRead_res_congr hf hf' hl hl' hread⟩
  · simp only [exec, execDec8, execDec8u, execBitx, hw]
    exact ⟨checkedRead_res_congr hf hf' hl hl' hbyte, checkedRead_res_congr hf hf' hl hl' hbyte,
      fun bit => checkedRead_res_congr hf hf' hl hl' hbyte⟩

open Sys2Proof.Machine in
/-- Settles O19: both offsets hold content, and each order's number determines the byte at the lower one. -/
theorem halfReadByByteOrder : Obligations.HalfReadByByteOrder := by
  intro s off hc hl
  obtain ⟨b0, b1, h0, h1, -⟩ := hc.content16 .le hl
  have lt0 := b0.isLt
  have lt1 := b1.isLt
  exact ⟨b0, b1, _, _, h0, h1, read16_some h0 h1, read16_some h0 h1, rfl, rfl, join16_lt .le b0 b1,
    join16_lt .be b0 b1, by rw [join16]; omega, by rw [join16]; omega⟩

end

section
/-! PROOFS. The tracker's numbers (R171 to R181): deltas are bounded and fit RES_W, so DL and DR read back as them; the wrap
branch, the first update and a repeated update; and what TRKUPD leaves unchanged. -/

namespace Sys2Proof.Machine

/-! ### Deltas in range (R176) -/

section

variable {p : Params}

/-- Counters of CNT_W bits have a delta of magnitude at most `2 ^ CNT_W`, since WRAP_K is at most that. -/
theorem IsDelta.natAbs_le {raw prev : Nat} {d : Int} (h : IsDelta p raw prev d)
    (hk : p.wrapK ≤ 2 ^ p.cntW) (hraw : raw < 2 ^ p.cntW) (hprev : prev < 2 ^ p.cntW) :
    d.natAbs ≤ 2 ^ p.cntW := by
  obtain ⟨hw, rfl⟩ | ⟨hw, rfl⟩ | ⟨hlt, hgt, rfl⟩ := h
  · omega
  · omega
  · omega

/-- With the default constants a delta is below the threshold in magnitude: a wrap leaves at most 5535. -/
theorem IsDelta.natAbs_le_default {raw prev : Nat} {d : Int} (h : IsDelta p raw prev d)
    (hc : p.cntW = 16) (ht : p.wrapThresh = 60000) (hk : p.wrapK = 65535)
    (hraw : raw < 2 ^ p.cntW) (hprev : prev < 2 ^ p.cntW) : d.natAbs ≤ 59999 := by
  rw [hc] at hraw hprev
  obtain ⟨hw, rfl⟩ | ⟨hw, rfl⟩ | ⟨hlt, hgt, rfl⟩ := h
  · omega
  · omega
  · omega

/-- RES_W holds every delta with its sign: two bits above CNT_W (R7; log entry 7). -/
theorem sint_sext_of_natAbs_le {n c : Nat} {d : Int} (hn : c + 2 ≤ n) (hd : d.natAbs ≤ 2 ^ c) :
    sint n (sext n d) = d := by
  have hp : 2 ^ (c + 1) ≤ 2 ^ (n - 1) := Nat.pow_le_pow_right Nat.two_pos (by omega)
  have hc : 2 ^ c < 2 ^ (c + 1) := Nat.pow_lt_pow_right Nat.one_lt_two (Nat.lt_succ_self c)
  exact sint_sext (by omega) (by omega) (by omega)

theorem delta_natAbs_le {raw prev : Nat} (hp : paramsOk p = true) (hraw : raw < 2 ^ p.cntW)
    (hprev : prev < 2 ^ p.cntW) : (delta p raw prev).natAbs ≤ 2 ^ p.cntW := by
  obtain ⟨-, -, -, hk, -⟩ := (paramsOk_iff p).mp hp
  exact (isDelta_delta p raw prev).natAbs_le hk hraw hprev

/-- The pattern of a delta reads back as the delta. -/
theorem sint_sext_delta {raw prev : Nat} (hp : paramsOk p = true) (hraw : raw < 2 ^ p.cntW)
    (hprev : prev < 2 ^ p.cntW) : sint p.resW (sext p.resW (delta p raw prev)) = delta p raw prev := by
  obtain ⟨-, -, -, -, -, hn, -⟩ := (paramsOk_iff p).mp hp
  exact sint_sext_of_natAbs_le hn (delta_natAbs_le hp hraw hprev)

/-- A rise of at least the threshold is taken as a wrap downwards. -/
theorem delta_of_rise {raw prev : Nat} (ht : 0 < p.wrapThresh) (h : prev + p.wrapThresh ≤ raw) :
    delta p raw prev = (raw : Int) - prev - p.wrapK :=
  ((show IsDelta p raw prev _ from .inl ⟨h, rfl⟩).eq_delta ht).symm

/-- A fall of at least the threshold is taken as a wrap upwards. -/
theorem delta_of_fall {raw prev : Nat} (ht : 0 < p.wrapThresh) (h : raw + p.wrapThresh ≤ prev) :
    delta p raw prev = (raw : Int) - prev + p.wrapK :=
  ((show IsDelta p raw prev _ from .inr (.inl ⟨h, rfl⟩)).eq_delta ht).symm

/-- The delta against zero: a reading at or above the threshold is taken as a wrap (R180). -/
theorem delta_zero {raw : Nat} (ht : 0 < p.wrapThresh) :
    delta p raw 0 = if p.wrapThresh ≤ raw then (raw : Int) - p.wrapK else raw := by
  split
  · next h => simpa using delta_of_rise (prev := 0) ht (by omega)
  · next h =>
    have small : IsDelta p raw 0 raw := .inr (.inr ⟨by omega, by omega, by simp⟩)
    exact (small.eq_delta ht).symm

end

/-! ### TRKUPD with both operands written -/

/-- DL and DR of an update read back as the deltas of its counts (R176). -/
theorem trackerUpdate_reads_back {s : State} (l r : BitVec 16) (hp : paramsOk s.params = true)
    (hw : WidthsHold s) :
    sint s.params.resW (trackerUpdate l r s).dl = delta s.params (countOf s.params l) s.prevL ∧
    sint s.params.resW (trackerUpdate l r s).dr = delta s.params (countOf s.params r) s.prevR :=
  ⟨sint_sext_delta hp (countOf_lt _ l) hw.prevL_lt, sint_sext_delta hp (countOf_lt _ r) hw.prevR_lt⟩

/-! ### A repeated update (R181) -/

theorem sext_zero (n : Nat) : sext n 0 = 0 := by simp [sext, uint]

/-- An update with counts that have not moved: zero deltas, the previous counters as before. -/
theorem trackerUpdate_of_same {s : State} {l r : BitVec 16} (ht : 0 < s.params.wrapThresh)
    (hL : s.prevL = countOf s.params l) (hR : s.prevR = countOf s.params r) :
    (trackerUpdate l r s).dl = 0 ∧ (trackerUpdate l r s).dr = 0 ∧
      (trackerUpdate l r s).prevL = s.prevL ∧ (trackerUpdate l r s).prevR = s.prevR := by
  simp only [trackerUpdate_dl, trackerUpdate_dr, trackerUpdate_prevL, trackerUpdate_prevR, hL, hR,
    delta_self ht, sext_zero, and_self]

/-- Of the four ways an operation ends, only Ok leaves LAST OK on a block that was not faulted. -/
theorem Ends.ok_of_last {i : Instr} {s t : State} (h : Ends i s t) (hf : s.status.faulted = false)
    (hl : t.status.last = .ok) :
    ∃ s', Effect i s s' ∧ t = conclude .ok (setLast .ok s'.status) s' := by
  cases h with
  | notAccepted hf' => simp [hf] at hf'
  | fault hf' c => simp at hl
  | malformed hf' hi hlen => simp at hl
  | ok hf' he => exact ⟨_, he, rfl⟩

/-- A row's value depends on the buffer and the packet's byte order alone. -/
theorem fieldsOf_of_bufRead_eq {s t : State} (ho : t.params.pktOrd = s.params.pktOrd)
    (h : ∀ x, bufRead t x = bufRead s x) (rows : List FieldRow) : fieldsOf t rows = fieldsOf s rows :=
  fieldsOf_congr fun _ _ => fieldValue_congr ho fun x _ => h x

/-- A TRKUPD right after one that returned Ok takes the same counts. -/
theorem exec_trkupd_again {s t : State} (he : Effect .trkupd s t) (hf : s.status.faulted = false) :
    ∃ l r, t.prevL = countOf t.params l ∧ t.prevR = countOf t.params r ∧
      exec .trkupd (conclude .ok (setLast .ok t.status) t) =
        returnOk (trackerUpdate l r (conclude .ok (setLast .ok t.status) t)) := by
  cases he with
  | trkupd h0 h1 => exact ⟨s.arg0, s.arg1, rfl, rfl, exec_trkupd_written hf h0 h1⟩

/-- A DECODE right after one that returned Ok finds the same record, so the same counts. -/
theorem exec_decode_again {s t : State} (he : Effect .decode s t) (hf : s.status.faulted = false) :
    ∃ rec l r, t.prevL = countOf t.params l ∧ t.prevR = countOf t.params r ∧
      exec .decode (conclude .ok (setLast .ok t.status) t) =
        returnOk (trackerUpdate l r (writeSens rec (conclude .ok (setLast .ok t.status) t))) := by
  cases he with
  | @decode _ rec l r hl hrec h_l h_r =>
    refine ⟨rec, l, r, rfl, rfl, exec_decode_of_fieldsOf hf hl (Eq.trans ?_ hrec) h_l h_r⟩
    exact fieldsOf_of_bufRead_eq (by rfl) (bufRead_congr (by rfl) (by rfl)) s.params.fieldTable

/-! ### What TRKUPD leaves unchanged -/

theorem Effect.trkupd_eq {s t : State} (h : Effect .trkupd s t) : ∃ l r, t = trackerUpdate l r s := by
  cases h
  exact ⟨_, _, rfl⟩

end Sys2Proof.Machine

open Sys2Proof.Machine in
/-- Settles O35: the counts have CNT_W bits, so the deltas are bounded and fit RES_W. -/
theorem deltaRangeAndReadBack : Obligations.DeltaRangeAndReadBack := by
  intro s hf hp hw h0 h1
  obtain ⟨hdl, hdr⟩ := trackerUpdate_reads_back s.arg0 s.arg1 hp hw
  have hl := countOf_lt s.params s.arg0
  have hr := countOf_lt s.params s.arg1
  have isL := isDelta_delta s.params (countOf s.params s.arg0) s.prevL
  have isR := isDelta_delta s.params (countOf s.params s.arg1) s.prevR
  exact ⟨_, _, _, _, _, exec_trkupd_written hf h0 h1, isCount_countOf _ _, isCount_countOf _ _, rfl, rfl,
    isL, isR, hdl, hdr, delta_natAbs_le hp hl hw.prevL_lt, delta_natAbs_le hp hr hw.prevR_lt,
    fun hc ht hk => ⟨isL.natAbs_le_default hc ht hk hl hw.prevL_lt,
      isR.natAbs_le_default hc ht hk hr hw.prevR_lt⟩⟩

open Sys2Proof.Machine in
/-- Settles O36: the wrap branch adds or takes 65535, the modulus less one. -/
theorem wrapDeltaIsOneNearerToZero : Obligations.WrapDeltaIsOneNearerToZero := by
  intro s hf hres ht hk hc hw h0 h1
  have hpos : 0 < s.params.wrapThresh := by omega
  have hraw : s.arg0.toNat < 65536 := s.arg0.isLt
  have hprev : s.prevL < 2 ^ 16 := hc ▸ hw.prevL_lt
  have reads : ∀ d : Int, delta s.params s.arg0.toNat s.prevL = d → d.natAbs ≤ 2 ^ 16 →
      sint 32 (trackerUpdate s.arg0 s.arg1 s).dl = d := fun d hd hd16 => by
    rw [trackerUpdate_dl, countOf_of_width hc.ge, hd, hres]
    exact sint_sext_of_natAbs_le (by decide) hd16
  refine ⟨_, exec_trkupd_written hf h0 h1, fun hrise => ?_, fun hfall => ?_⟩
  · have hd := reads _ (delta_of_rise hpos (ht ▸ hrise)) (by omega)
    rw [conclude_dl, hd]
    omega
  · have hd := reads _ (delta_of_fall hpos (ht ▸ hfall)) (by omega)
    rw [conclude_dl, hd]
    omega

open Sys2Proof Sys2Proof.Machine in
/-- Settles O40: the second run takes the same counts, which the first has left in PREVL and PREVR. -/
theorem repeatedUpdateGivesZero : Obligations.RepeatedUpdateGivesZero := by
  intro s t u i hi ht hf run hlast run'
  obtain ⟨s', he, rfl⟩ := (exec_ends run).ok_of_last hf hlast
  have ht' : 0 < s'.params.wrapThresh := by rwa [he.params_eq]
  obtain rfl | rfl := hi
  · obtain ⟨l, r, hL, hR, again⟩ := exec_trkupd_again he hf
    obtain rfl := Host.Outcome.next.inj (run'.symm.trans again)
    exact trackerUpdate_of_same (s := conclude .ok (setLast .ok s'.status) s') ht' hL hR
  · obtain ⟨rec, l, r, hL, hR, again⟩ := exec_decode_again he hf
    obtain rfl := Host.Outcome.next.inj (run'.symm.trans again)
    exact trackerUpdate_of_same
      (s := writeSens rec (conclude .ok (setLast .ok s'.status) s')) ht' hL hR

open Sys2Proof Sys2Proof.Machine in
/-- Settles O41: TRKUPD, when it ends, is not accepted, faults, or writes the tracker's registers. -/
theorem trackerUpdateFrame : Obligations.TrackerUpdateFrame := by
  intro s t h
  cases exec_ends h with
  | notAccepted hf => simp
  | fault hf c => simp
  | malformed hf hd hl => cases hd
  | ok hf he =>
    obtain ⟨l, r, rfl⟩ := he.trkupd_eq
    simp

end

section
/-! PROOFS. The record (R130 to R151) and the field table (R7, R133): a flag is its bit, DECODE's record is a function of the
packet, only DECODE and reset write it, FLAG reads a flag row, and creating a block checks the constraints. -/

namespace Sys2Proof.Machine

/-! ### The record that DECODE writes (R150) -/

/-- A DECODE that takes effect has found a packet's length, and SENS is the record of every row's value. -/
theorem Effect.decode_record {s t : State} (h : Effect .decode s t) :
    s.len = s.params.pktLen ∧ fieldsOf s s.params.fieldTable = some t.sens := by
  cases h with
  | decode hl hrec => exact ⟨hl, hrec⟩

/-- How DECODE can end in a next state: it raises no fault. -/
theorem exec_decode_next {s t : State} (h : exec .decode s = .next t) :
    t = reply (.outcome .notAccepted) s ∨
    t = conclude .errMalformed (setLast .errMalformed s.status) s ∨
    ∃ rec l r, returnOk (trackerUpdate l r (writeSens rec s)) = .next t := by
  by_cases hf : s.status.faulted = true
  · rw [exec_faulted _ hf] at h
    exact .inl (Host.Outcome.next.inj h).symm
  have hf : s.status.faulted = false := eq_false_of_ne_true hf
  by_cases hl : s.len = s.params.pktLen
  · rw [exec, execDecode, whenAccepted_clear hf, if_pos hl] at h
    cases hrec : fieldsOf s s.params.fieldTable with
    | none => rw [hrec] at h; cases h
    | some rec =>
      rw [hrec, withContent_some, acceptPacket] at h
      split at h
      · exact .inr (.inr ⟨_, _, _, h⟩)
      · cases h
  · rw [exec_decode_malformed hf hl] at h
    exact .inr (.inl (Host.Outcome.next.inj h).symm)

/-! ### Which steps write the record (R30, R150) -/

/-- SENS and SV: the state that R150 speaks of. -/
def recordState (s : State) : Record × Bool := (s.sens, s.status.sv)

theorem recordState_ne_iff (s t : State) :
    recordState t ≠ recordState s ↔ t.sens ≠ s.sens ∨ t.status.sv ≠ s.status.sv := by
  simp only [recordState, ne_eq, Prod.mk.injEq, Classical.not_and_iff_not_or_not]

/-- Of the operations' effects only DECODE's writes the record. -/
theorem Effect.decode_of_recordState_ne {i : Instr} {s t : State} (h : Effect i s t)
    (ht : recordState t ≠ recordState s) : i = .decode := by
  cases h with
  | enc16be | dec16 | dec16u | dec8 | dec8u | bitx | trkupd => exact absurd rfl ht
  | decode => rfl

/-- Of the four ways an operation ends, only DECODE's Ok writes the record. -/
theorem Ends.decode_of_recordState_ne {i : Instr} {s t : State} (h : Ends i s t)
    (ht : recordState t ≠ recordState s) :
    i = .decode ∧ s.len = s.params.pktLen ∧ t.replies = .outcome .ok :: s.replies ∧
      fieldsOf s s.params.fieldTable = some t.sens := by
  cases h with
  | notAccepted | fault | malformed => exact absurd rfl ht
  | ok hf he =>
    obtain rfl := he.decode_of_recordState_ne ht
    obtain ⟨hl, hrec⟩ := he.decode_record
    exact ⟨rfl, hl, congrArg _ he.replies_eq, hrec⟩

theorem recordState_of_illegalWord {s t : State} (h : illegalWord s = .next t) :
    recordState t = recordState s := by
  obtain ⟨-, rfl⟩ | ⟨-, rfl⟩ := illegalWord_next h <;> rfl

/-- Of the host's actions only reset and a word of DECODE write the record. -/
theorem perform_of_recordState_ne {a : HostAction} {s t : State} (h : perform a s = .next t)
    (ht : recordState t ≠ recordState s) :
    a = .reset ∨ ∃ w, a = .issue w ∧ decodeWord w = .ok .decode ∧ s.len = s.params.pktLen ∧
      t.replies = .outcome .ok :: s.replies ∧ fieldsOf s s.params.fieldTable = some t.sens := by
  obtain ⟨w, i, ha, hd, hx⟩ | ⟨_, _, -, -, hx⟩ | ⟨_, -, -, rfl⟩ | ⟨arg, _, -, -, rfl⟩ | ⟨_, -, rfl⟩ |
    ⟨ha, -⟩ := perform_next h
  · obtain ⟨rfl, written⟩ := (exec_ends hx).decode_of_recordState_ne ht
    exact .inr ⟨w, ha, hd, written⟩
  · exact absurd (recordState_of_illegalWord hx) ht
  · exact absurd rfl ht
  · simp [recordState] at ht
  · exact absurd rfl ht
  · exact .inl ha

/-! ### FLAG of a flag row (R81) -/

/-- The names of an accepted table are distinct, so a row is found by its name. -/
theorem rowNamed_of_mem {rows : List FieldRow} (hf : rowsFit rows = true) {r : FieldRow} (hr : r ∈ rows) :
    rowNamed rows r.name = some r := by
  induction rows with
  | nil => cases hr
  | cons a rows ih =>
    simp only [rowsFit, Bool.and_eq_true] at hf
    obtain ⟨hfit, hrest⟩ := hf
    rcases List.mem_cons.mp hr with rfl | hr
    · simp [rowNamed]
    · simp [rowNamed, name_ne_of_rowFits hfit hr, ih hrest hr]

/-- FLAG of a flag row is the assembled BITX of its offset and bit. -/
theorem flagActions_of_mem {p : Params} (hf : rowsFit p.fieldTable = true) {row : FieldRow}
    (hr : row ∈ p.fieldTable) {bit : Fin 8} (hk : row.kind = .flag bit) :
    flagActions p row.name = (assembleWord ⟨.bitx, none, [row.off, bit]⟩).map fun w => [.issue w] := by
  obtain ⟨name, off, kind⟩ := row
  subst hk
  rw [flagActions, rowNamed_of_mem hf hr]

/-- A BITX line assembles exactly for an offset of 8 bits (R71). -/
theorem assembleWord_bitx (off : Nat) (bit : Fin 8) :
    assembleWord ⟨.bitx, none, [off, bit]⟩ = if off < 256 then some (encode (.bitx off bit)) else none := by
  simp [assembleWord, assemble, Instr.wellFormed]

/-- BITX of a flag row below LEN leaves the row's value in RES as 0 or 1 (R106). -/
theorem exec_bitx_flag {s : State} {off : Nat} {b : Byte} (bit : Fin 8) (hw : 0 < s.params.resW)
    (hf : s.status.faulted = false) (hl : off + 1 ≤ s.len) (hb : bufRead s off = some b) :
    ∃ t, exec (.bitx off bit) s = .next t ∧ t.res = if bitTest b bit then 1 else 0 := by
  have fits : (if bitTest b bit then 1 else 0) < 2 ^ s.params.resW := by
    have := Nat.one_lt_two_pow hw.ne'
    split <;> omega
  exact ⟨_, exec_bitx_in hf hl hb, zext_of_lt fits⟩

/-! ### The constraints on the parameters (R7, R133) -/

theorem fieldKind_width_pos (k : FieldKind) : 0 < k.width := by
  cases k <;> simp [FieldKind.width]

/-- Rows that overlap share the higher of their first bytes. -/
theorem exists_covers_of_rowsOverlap {a b : FieldRow} (h : rowsOverlap a b = true) :
    ∃ x, Covers a x ∧ Covers b x := by
  have ha := fieldKind_width_pos a.kind
  have hb := fieldKind_width_pos b.kind
  simp only [rowsOverlap, Bool.and_eq_true, decide_eq_true_eq] at h
  refine ⟨max a.off b.off, ?_, ?_⟩
  · unfold Covers; omega
  · unfold Covers; omega

/-- Rows that may stand in one table are compatible (R133). -/
theorem rowsCompatible_of_rowsAgree {a b : FieldRow} (h : RowsAgree a b) : rowsCompatible a b = true := by
  obtain ⟨-, hshare⟩ := h
  by_cases ho : rowsOverlap a b = true
  · obtain ⟨x, ha, hb⟩ := exists_covers_of_rowsOverlap ho
    obtain ⟨m, n, hm, hn, hne⟩ := hshare x ha hb
    simp [rowsCompatible, hm, hn, hne]
  · unfold rowsCompatible
    split <;> simp [ho]

theorem rowsFit_iff_pairwise (rows : List FieldRow) : rowsFit rows = true ↔ rows.Pairwise RowsAgree := by
  refine ⟨pairwise_of_rowsFit, fun h => ?_⟩
  induction h with
  | nil => rfl
  | cons hhead _ ih =>
    simp only [rowsFit, rowFits, Bool.and_eq_true, List.all_eq_true, decide_eq_true_eq]
    exact ⟨fun b hb => ⟨rowsCompatible_of_rowsAgree (hhead b hb), (hhead b hb).1⟩, ih⟩

/-- The field-table constraints of R133 and log entry 7, one by one. -/
theorem fieldTableOk_iff (p : Params) : fieldTableOk p = true ↔
    (∀ r ∈ p.fieldTable, r.off + r.kind.width ≤ p.pktLen ∧ ∀ x ∈ Config.unusedBytes, ¬ Covers r x) ∧
    p.fieldTable.Pairwise RowsAgree ∧
    (∃ r ∈ p.fieldTable, r.name = .encoderCounts_left ∧ r.kind = .u16) ∧
    (∃ r ∈ p.fieldTable, r.name = .encoderCounts_right ∧ r.kind = .u16) := by
  simp only [fieldTableOk, Bool.and_eq_true, List.all_eq_true, List.any_eq_true, decide_eq_true_eq,
    Bool.not_eq_true', ← Bool.not_eq_true, covers_iff, rowsFit_iff_pairwise, and_assoc]

/-- The check that creating a block makes is the constraints of R7 and R133 and those of log entry 7. -/
theorem paramsOk_iff_paramsMeet (p : Params) : paramsOk p = true ↔ ParamsMeet p := by
  rw [paramsOk_iff, fieldTableOk_iff]
  constructor
  · rintro ⟨hpkt, hpos, hle, hk, hres, hfits, hrows, hagree, hleft, hright⟩
    exact ⟨hpkt, hpos, hle, hk, hres, hfits, fun r hr => (hrows r hr).1, fun r hr => (hrows r hr).2,
      hagree, hleft, hright⟩
  · intro h
    exact ⟨h.packet_fits, h.thresh_pos, h.thresh_le, h.wrapK_le, h.resW_ge, h.delta_fits,
      fun r hr => ⟨h.rows_inside r hr, h.rows_skip r hr⟩, h.rows_agree, h.count_left, h.count_right⟩

end Sys2Proof.Machine

open Sys2Proof.Machine in
/-- Settles O28: the test under the mask is the bit itself. -/
theorem flagDependsOnItsBitAlone : Obligations.FlagDependsOnItsBitAlone := by
  intro s s' row bit b b' hk hb hb' hbit
  rw [fieldValue_flag hk hb, fieldValue_flag hk hb', bitTest_eq, bitTest_eq, hbit]
  exact ⟨rfl, rfl⟩

open Sys2Proof Sys2Proof.Machine in
/-- Settles O31: both records are the values of the same rows at the same bytes. -/
theorem recordDependsOnBytesAlone : Obligations.RecordDependsOnBytesAlone := by
  intro s s' t t' hpar hlen hbytes run run' hlast hlast' hf hf'
  obtain ⟨u, he, rfl⟩ := (exec_ends run).ok_of_last hf hlast
  obtain ⟨u', he', rfl⟩ := (exec_ends run').ok_of_last hf' hlast'
  obtain ⟨-, hrec⟩ := he.decode_record
  obtain ⟨-, hrec'⟩ := he'.decode_record
  have same := fieldsOf_of_bufRead_eq (congrArg Params.pktOrd hpar) hbytes s.params.fieldTable
  exact Option.some.inj (hrec.symm.trans (same.trans (hpar ▸ hrec')))

open Sys2Proof.Machine in
/-- Settles O32: an idle step keeps the whole state, and every action but those named keeps the record. -/
theorem onlyDecodeWritesTheRecord : Obligations.OnlyDecodeWritesTheRecord := by
  intro s t h hne
  have ht : recordState t ≠ recordState s := (recordState_ne_iff s t).mpr hne
  obtain ⟨-, rfl⟩ | ⟨e, rest, hp, -, he⟩ := step_next h
  · exact absurd rfl ht
  · refine ⟨e, rest, hp, ?_⟩
    obtain ha | ⟨w, ha, hd, hl, hr, hrec⟩ :=
      perform_of_recordState_ne (s := { s with pending := rest }) he ht
    · exact .inl ha
    · have same := fieldsOf_of_bufRead_eq (s := s) (t := { s with pending := rest }) rfl
        (bufRead_congr rfl rfl) s.params.fieldTable
      exact .inr ⟨w, ha, hd, hl, hr, same.symm.trans hrec⟩

open Sys2Proof.Machine in
/-- Settles O33: DECODE, when it ends, is not accepted, finds a malformed packet, or writes the record and the tracker. -/
theorem packetDecodeFrame : Obligations.PacketDecodeFrame := by
  intro s t h
  obtain rfl | rfl | ⟨rec, l, r, hok⟩ := exec_decode_next h
  · simp
  · simp
  · cases hok
    simp

open Sys2Proof Sys2Proof.Machine in
/-- Settles O54: the row is found by its name, and its BITX tests the bit that the row's value is. -/
theorem flagMacroReadsTheField : Obligations.FlagMacroReadsTheField := by
  intro s row bit hp hc hf hl hrow hk
  have hok := fieldTableOk_of_paramsOk hp
  have expansion := flagActions_of_mem (rowsFit_of_fieldTableOk hok) hrow hk
  rw [assembleWord_bitx] at expansion
  refine ⟨fun hoff => ?_, fun hoff => ?_⟩
  · have inside : row.off + 1 ≤ s.len := by
      obtain ⟨hin, -⟩ := row_of_fieldTableOk hok hrow
      rwa [hk, ← hl] at hin
    obtain ⟨b, hb⟩ := hc.content inside
    obtain ⟨-, -, -, -, hres, -⟩ := (paramsOk_iff s.params).mp hp
    obtain ⟨t, run, hval⟩ := exec_bitx_flag bit (by omega) hf inside hb
    have hd : decodeWord (encode (.bitx row.off bit)) = .ok (.bitx row.off bit) :=
      decodeWord_encode (by simp [Instr.wellFormed, hoff])
    rw [if_pos hoff] at expansion
    exact ⟨_, t, _, expansion, hd, (perform_issue_ok hd).trans run, fieldValue_flag hk hb, hval⟩
  · rw [expansion, if_neg (Nat.not_lt.mpr hoff)]
    rfl

open Sys2Proof.Machine in
/-- Settles O47: the check on creation is the constraints of `ParamsMeet`. -/
theorem badParametersAreRefused : Obligations.BadParametersAreRefused := by
  intro p
  rw [← paramsOk_iff_paramsMeet]
  exact ⟨createBlock_of_ok, fun h => if_neg h⟩

end

section
/-! PROOFS. The host's side (R24, R40, R53, R64 to R66, R80, R215): the STATUS word by its bits, LOAD, WR and reads, what a
step does with the next pending action, and what every step leaves of the replies and of the buffer's form. -/

namespace Sys2Proof.Machine

/-! ### The STATUS word by its bits (R40) -/

/-- The word is the sum of the fields' codes at their places, each code below the next place. -/
theorem statusWord_fields (st : Status) :
    (statusWord st).toNat % 4 = lastNum st.last ∧ (statusWord st).toNat / 4 % 8 = fcauseNum st.fcause ∧
    (statusWord st).toNat / 32 % 2 = bitNum st.faulted ∧
    (statusWord st).toNat / 64 % 2 = phaseNum st.phase ∧ (statusWord st).toNat / 128 % 2 = bitNum st.sv ∧
    (statusWord st).toNat / 256 % 2 = bitNum st.dv ∧ (statusWord st).toNat / 512 % 2 = bitNum st.rv ∧
    (statusWord st).toNat / 1024 % 2 = bitNum st.ov ∧ (statusWord st).toNat / 2048 % 2 = bitNum st.av0 ∧
    (statusWord st).toNat / 4096 % 2 = bitNum st.av1 ∧ (statusWord st).toNat / 8192 = 0 := by
  have hlast := lastNum_le st.last
  have hcause := fcauseNum_le st.fcause
  have hphase := phaseNum_le st.phase
  have hfaulted := bitNum_le st.faulted
  have hsv := bitNum_le st.sv
  have hdv := bitNum_le st.dv
  have hrv := bitNum_le st.rv
  have hov := bitNum_le st.ov
  have hav0 := bitNum_le st.av0
  have hav1 := bitNum_le st.av1
  rw [statusWord_toNat]
  omega

/-! ### A step by the next pending action (R25, R64) -/

theorem step_idle {s : State} (h : s.pending = []) : step s = .next s := by
  rw [step, fetchAction, h]

theorem step_allowed {s : State} {e : HostEvent} {rest : List HostEvent} (h : s.pending = e :: rest)
    (he : eventAllowed e = true) : step s = perform e.action { s with pending := rest } := by
  simp only [step, fetchAction, h, he, if_true]

theorem step_not_allowed {s : State} {e : HostEvent} {rest : List HostEvent} (h : s.pending = e :: rest)
    (he : eventAllowed e = false) : step s = .refused .secondIssuer := by
  simp [step, fetchAction, h, he]

/-- Another agent may read, and do nothing else (R215). -/
theorem eventAllowed_other_iff {e : HostEvent} {k : Nat} (hk : e.agent = .other k) :
    eventAllowed e = true ↔ ∃ n, e.action = .rd n := by
  obtain ⟨agent, action⟩ := e
  subst hk
  cases action <;> simp [eventAllowed]

/-- The word that `issueNext` places is run by the very next step, on the state it was placed in. -/
theorem step_issueNext (w : Word) (s : State) : step (issueNext w s) = perform (.issue w) s := rfl

theorem withFetchWord_toNat (w : Word) (s : State) : s.withFetchWord 16 w.toNat = issueNext w s := by
  rw [State.withFetchWord, Nat.mod_eq_of_lt w.isLt, BitVec.ofNat_toNat, BitVec.setWidth_eq]

theorem decodeWord_of_decodeTableWord {w : Word} {i : Instr} (h : decodeTableWord 16 w.toNat = some i) :
    decodeWord w = .ok i := by
  rw [decodeTableWord, Nat.mod_eq_of_lt w.isLt, BitVec.ofNat_toNat, BitVec.setWidth_eq] at h
  split at h
  · next j hd => rwa [← Option.some.inj h]
  · cases h

/-! ### The pattern that WR stores (R80) -/

theorem ofNat_uint_16 (v : Int) : BitVec.ofNat 16 (uint 16 v) = BitVec.ofInt 16 v := by
  apply BitVec.eq_of_toNat_eq
  rw [BitVec.toNat_ofNat, Nat.mod_eq_of_lt (uint_lt 16 v), BitVec.toNat_ofInt, uint]

theorem perform_wr_out_of_range {v : Int} (a : ArgName) (s : State) (h : v < -32768 ∨ 65535 < v) :
    perform (.wr a v) s = .refused .argOutOfRange :=
  if_neg (by simp [argInRange]; omega)

/-! ### What an action leaves of the replies, the pending actions and the buffer -/

/-- No operation takes a pending action or writes BUF. -/
theorem Effect.pending_buf_eq {i : Instr} {s t : State} (h : Effect i s t) :
    t.pending = s.pending ∧ t.buf = s.buf := by
  cases h <;> exact ⟨rfl, rfl⟩

theorem Ends.pending_buf_eq {i : Instr} {s t : State} (h : Ends i s t) :
    t.pending = s.pending ∧ t.buf = s.buf := by
  cases h with
  | notAccepted | fault | malformed => exact ⟨rfl, rfl⟩
  | ok hf he => exact he.pending_buf_eq

/-- An operation that ends returns one outcome (R200). -/
theorem Ends.replies_eq {i : Instr} {s t : State} (h : Ends i s t) :
    ∃ o, t.replies = .outcome o :: s.replies := by
  cases h with
  | notAccepted | fault | malformed => exact ⟨_, rfl⟩
  | ok hf he => exact ⟨.ok, congrArg _ he.replies_eq⟩

/-- So does an illegal word, and it writes neither pending actions nor BUF (R77). -/
theorem illegalWord_frame {s t : State} (h : illegalWord s = .next t) :
    (t.pending = s.pending ∧ t.buf = s.buf) ∧ ∃ o, t.replies = .outcome o :: s.replies := by
  obtain ⟨-, rfl⟩ | ⟨-, rfl⟩ := illegalWord_next h <;> exact ⟨⟨rfl, rfl⟩, _, rfl⟩

/-- A word takes no pending action, writes no byte of BUF and returns one outcome. -/
theorem perform_issue_frame {s t : State} {w : Word} (h : perform (.issue w) s = .next t) :
    (t.pending = s.pending ∧ t.buf = s.buf) ∧ ∃ o, t.replies = .outcome o :: s.replies := by
  cases hd : decodeWord w with
  | ok i =>
    have ends := exec_ends (perform_issue_ok hd ▸ h)
    exact ⟨ends.pending_buf_eq, ends.replies_eq⟩
  | error e => exact illegalWord_frame (perform_issue_error hd ▸ h)

theorem perform_load_next {s t : State} {bytes : List Byte} (h : perform (.load bytes) s = .next t) :
    bytes.length ≤ s.params.bufCap ∧ t = writeBuf bytes s := by
  simpa using perform_next h

theorem perform_wr_next {s t : State} {a : ArgName} {v : Int} (h : perform (.wr a v) s = .next t) :
    t = writeArg a (BitVec.ofNat 16 (uint 16 v)) s := by
  obtain ⟨-, rfl⟩ : _ ∧ t = writeArg a (BitVec.ofNat 16 (uint 16 v)) s := by simpa using perform_next h
  rfl

/-- An action adds at most one reply, before the earlier ones (R65). -/
theorem perform_replies {a : HostAction} {s t : State} (h : perform a s = .next t) :
    t.replies = s.replies ∨ ∃ r, t.replies = r :: s.replies := by
  cases a with
  | issue w =>
    obtain ⟨-, o, hr⟩ := perform_issue_frame h
    exact .inr ⟨_, hr⟩
  | load bytes =>
    obtain ⟨-, rfl⟩ := perform_load_next h
    exact .inl rfl
  | wr a v =>
    rw [perform_wr_next h]
    exact .inl (writeArg_replies a _ s)
  | rd n =>
    cases h
    exact .inr ⟨_, rfl⟩
  | reset =>
    cases h
    exact .inl rfl

theorem perform_pending {a : HostAction} {s t : State} (h : perform a s = .next t) :
    t.pending = s.pending := by
  cases a with
  | issue w => exact (perform_issue_frame h).1.1
  | load bytes =>
    obtain ⟨-, rfl⟩ := perform_load_next h
    rfl
  | wr a v =>
    rw [perform_wr_next h]
    exact writeArg_pending a _ s
  | rd n =>
    cases h
    rfl
  | reset =>
    cases h
    rfl

/-- Only LOAD and reset write BUF, and both leave the canonical form (R53). -/
theorem perform_wf {a : HostAction} {s t : State} (h : perform a s = .next t)
    (hw : Memory.wf s.buf = true) : Memory.wf t.buf = true := by
  cases a with
  | issue w =>
    obtain ⟨⟨-, hbuf⟩, -⟩ := perform_issue_frame h
    rwa [hbuf]
  | load bytes =>
    obtain ⟨-, rfl⟩ := perform_load_next h
    exact wf_writeBuf bytes s
  | wr a v =>
    rwa [perform_wr_next h, writeArg_buf]
  | rd n =>
    cases h
    exact hw
  | reset =>
    cases h
    exact wf_reset

end Sys2Proof.Machine

open Sys2Proof.Machine in
/-- Settles O42: the codes are the ones that the model writes into the word. -/
theorem statusWordLayout : Obligations.StatusWordLayout :=
  fun st => statusWord_fields st

open Sys2Proof.Machine in
/-- Settles O48: LOAD lists the bytes from offset 0 on. -/
theorem loadReplacesTheBuffer : Obligations.LoadReplacesTheBuffer :=
  fun s bytes => ⟨fun hl => ⟨cellsFrom 0 bytes, perform_load hl, wf_cellsFrom bytes,
    bufRead_writeBuf bytes s⟩, fun hl => if_neg (Nat.not_le.mpr hl)⟩

open Sys2Proof.Machine in
/-- Settles O49: the value modulo `2 ^ 16` is its 16-bit pattern. -/
theorem writeSetsOneOperand : Obligations.WriteSetsOneOperand := by
  refine fun s v => ⟨fun lo hi => ?_, fun h a => perform_wr_out_of_range a s h⟩
  rw [perform_wr .arg0 s lo hi, perform_wr .arg1 s lo hi, ofNat_uint_16]
  exact ⟨rfl, rfl⟩

open Sys2Proof.Machine in
/-- Settles O50: each name reads its register under its own bit, and an offset of BUF reads below LEN alone. -/
theorem readOfInvalidRegisterIsNone : Obligations.ReadOfInvalidRegisterIsNone := by
  intro s
  have above (off : Nat) (h : s.len ≤ off) : hostRead s (.buf off) = none :=
    congrArg (Option.map _) (bufRead_of_ge h)
  have below (off : Nat) (h : off < s.len) :
      hostRead s (.buf off) = (Memory.read s.buf off).map fun b => .bits b.toNat :=
    congrArg (Option.map _) (if_pos h)
  exact ⟨fun _ => rfl, rfl, rfl, rfl, rfl, rfl, rfl, rfl, rfl, rfl, rfl, rfl, rfl, rfl, rfl, rfl, rfl,
    rfl, rfl, rfl, rfl, rfl, rfl, above, below⟩

open Sys2Proof.Machine in
/-- Settles O51: an idle step adds no reply, and an action adds at most one. -/
theorem repliesAreSnapshots : Obligations.RepliesAreSnapshots := by
  intro s t h
  obtain ⟨-, rfl⟩ | ⟨e, rest, -, -, run⟩ := step_next h
  · exact .inl rfl
  · exact perform_replies (s := { s with pending := rest }) run

open Sys2Proof.Machine in
/-- Settles O58: an idle step keeps the whole state, and every action keeps the form. -/
theorem stepKeepsTheBufferCanonical : Obligations.StepKeepsTheBufferCanonical := by
  intro s t hw h
  obtain ⟨-, rfl⟩ | ⟨e, rest, -, -, run⟩ := step_next h
  · exact hw
  · exact perform_wf (s := { s with pending := rest }) run hw

open Sys2Proof.Machine in
/-- Settles O53: an agent other than the issuer is allowed a read alone. -/
theorem secondIssuerIsRefused : Obligations.SecondIssuerIsRefused := by
  intro s e rest k hp hk
  refine ⟨fun hrd => ?_, fun n hrd => ?_⟩
  · refine step_not_allowed hp (eq_false_of_ne_true fun ha => ?_)
    obtain ⟨n, hn⟩ := (eventAllowed_other_iff hk).mp ha
    exact hrd n hn
  · rw [step_allowed hp ((eventAllowed_other_iff hk).mpr ⟨n, hrd⟩), hrd]
    rfl

open Sys2Proof Sys2Proof.Machine in
/-- Settles O55: the issuer's action is always allowed, and a step performs it. -/
theorem stepRunsTheDecodedWord : Obligations.StepRunsTheDecodedWord := by
  refine fun s => ⟨fun w rest hp => ⟨fun i hd => ?_, fun e hd hf => ?_⟩, fun w i hd => ?_,
    fun a rest hp => step_allowed hp rfl, step_idle⟩
  · exact (step_allowed hp rfl).trans (perform_issue_ok hd)
  · exact (step_allowed hp rfl).trans ((perform_issue_error hd).trans (illegalWord_clear hf))
  · rw [withFetchWord_toNat, step_issueNext, perform_issue_ok (decodeWord_of_decodeTableWord hd)]

end

section
/-! PROOFS. The invariant of the machine (R51, R22, R32, R40, R173, R180): reset meets it, each write of the state keeps it,
so every step does; and a host program of actions that exist runs to its end. -/

namespace Sys2Proof.Machine

/-! ### STATUS stays coherent -/

theorem statusCoherent_reset : StatusCoherent Status.reset where
  faulted_iff_last := by decide
  faulted_iff_cause := by decide
  dv_iff_tracking := by decide
  sv_tracking := by decide
  none_fresh := by decide

section

variable {st : Status} (h : StatusCoherent st)

include h

/-- The end of an operation that takes no fault writes LAST alone. -/
theorem StatusCoherent.setLast {l : Last} (hf : st.faulted = false) (hl : l ≠ .fault) (hn : l ≠ .none) :
    StatusCoherent (setLast l st) where
  faulted_iff_last := by simp [hf, hl]
  faulted_iff_cause := h.faulted_iff_cause
  dv_iff_tracking := h.dv_iff_tracking
  sv_tracking := h.sv_tracking
  none_fresh e := absurd e hn

/-- A fault writes FAULTED, FCAUSE and LAST together (R42). -/
theorem StatusCoherent.setFault (c : FaultCause) : StatusCoherent (setFault c st) where
  faulted_iff_last := by simp
  faulted_iff_cause := by simp
  dv_iff_tracking := h.dv_iff_tracking
  sv_tracking := h.sv_tracking
  none_fresh e := by cases e

theorem StatusCoherent.setRV (hl : st.last ≠ .none) : StatusCoherent (setRV st) where
  faulted_iff_last := h.faulted_iff_last
  faulted_iff_cause := h.faulted_iff_cause
  dv_iff_tracking := h.dv_iff_tracking
  sv_tracking := h.sv_tracking
  none_fresh e := absurd e hl

theorem StatusCoherent.setOV (hl : st.last ≠ .none) : StatusCoherent (setOV st) where
  faulted_iff_last := h.faulted_iff_last
  faulted_iff_cause := h.faulted_iff_cause
  dv_iff_tracking := h.dv_iff_tracking
  sv_tracking := h.sv_tracking
  none_fresh e := absurd e hl

/-- SV follows the tracker update that comes with it (R130). -/
theorem StatusCoherent.setSV (hl : st.last ≠ .none) (hp : st.phase = .tracking) :
    StatusCoherent (setSV st) where
  faulted_iff_last := h.faulted_iff_last
  faulted_iff_cause := h.faulted_iff_cause
  dv_iff_tracking := h.dv_iff_tracking
  sv_tracking _ := hp
  none_fresh e := absurd e hl

/-- DV and PHASE are written together (R173). -/
theorem StatusCoherent.setTracked (hl : st.last ≠ .none) : StatusCoherent (setTracked st) where
  faulted_iff_last := h.faulted_iff_last
  faulted_iff_cause := h.faulted_iff_cause
  dv_iff_tracking := by simp
  sv_tracking _ := rfl
  none_fresh e := absurd e hl

theorem StatusCoherent.setArgWritten (a : ArgName) : StatusCoherent (setArgWritten a st) := by
  obtain ⟨hlast, hcause, hdv, hsv, hnone⟩ := h
  cases a with
  | arg0 | arg1 => exact ⟨hlast, hcause, hdv, hsv, hnone⟩

end

/-! ### Reset meets the invariant -/

theorem inv_resetWith {p : Params} (hp : paramsOk p = true) : Inv (State.resetWith p) where
  params := hp
  buffer := bufferCoherent_resetWith p
  widths := ⟨Nat.two_pow_pos _, Nat.two_pow_pos _, Nat.two_pow_pos _, Nat.two_pow_pos _,
    Nat.two_pow_pos _⟩
  status := statusCoherent_reset
  tracker _ := ⟨rfl, rfl⟩
  deltas h := by cases h
  record h := by cases h

/-! ### The writes of the state keep the invariant -/

section

variable {s : State} (inv : Inv s)

include inv

/-- The invariant does not speak of the host's side: the pending actions and the replies. -/
theorem Inv.withHost (events : List HostEvent) (rs : List Reply) :
    Inv { s with pending := events, replies := rs } :=
  ⟨inv.params, inv.buffer, inv.widths, inv.status, inv.tracker, inv.deltas, inv.record⟩

theorem Inv.reply (r : Reply) : Inv (reply r s) := inv.withHost s.pending (r :: s.replies)

/-- The end of an operation that takes no fault (R41). -/
theorem Inv.concluded {l : Last} (o : OpOutcome) (hf : s.status.faulted = false) (hl : l ≠ .fault)
    (hn : l ≠ .none) : Inv (conclude o (setLast l s.status) s) :=
  ⟨inv.params, inv.buffer, inv.widths, inv.status.setLast hf hl hn, inv.tracker, inv.deltas, inv.record⟩

theorem Inv.faulted (c : FaultCause) : Inv (conclude (.fault c) (setFault c s.status) s) :=
  ⟨inv.params, inv.buffer, inv.widths, inv.status.setFault c, inv.tracker, inv.deltas, inv.record⟩

theorem Inv.writeRes {v : Nat} (hl : s.status.last ≠ .none) (hv : v < 2 ^ s.params.resW) :
    Inv (writeRes v s) :=
  ⟨inv.params, inv.buffer, ⟨hv, inv.widths.2⟩, inv.status.setRV hl, inv.tracker, inv.deltas, inv.record⟩

theorem Inv.writeOut (hi lo : Byte) (hl : s.status.last ≠ .none) : Inv (writeOut hi lo s) :=
  ⟨inv.params, inv.buffer, inv.widths, inv.status.setOV hl, inv.tracker, inv.deltas, inv.record⟩

theorem Inv.writeSens {rec : Record} (hl : s.status.last ≠ .none) (hp : s.status.phase = .tracking)
    (hrec : recordTyped s.params.fieldTable rec = true) : Inv (writeSens rec s) :=
  ⟨inv.params, inv.buffer, inv.widths, inv.status.setSV hl hp, inv.tracker, inv.deltas, fun _ => hrec⟩

/-- A tracker update: counts of CNT_W bits, whose deltas are in range and fit RES_W (R176). -/
theorem Inv.trackerUpdate (l r : BitVec 16) (hl : s.status.last ≠ .none) : Inv (trackerUpdate l r s) where
  params := inv.params
  buffer := inv.buffer
  widths := ⟨inv.widths.1, sext_lt _ _, sext_lt _ _, countOf_lt _ l, countOf_lt _ r⟩
  status := inv.status.setTracked hl
  tracker h := by simp at h
  deltas _ := by
    obtain ⟨hdl, hdr⟩ := trackerUpdate_reads_back l r inv.params inv.widths
    rw [trackerUpdate_params, hdl, hdr]
    exact ⟨delta_natAbs_le inv.params (countOf_lt _ l) inv.widths.prevL_lt,
      delta_natAbs_le inv.params (countOf_lt _ r) inv.widths.prevR_lt⟩
  record := inv.record

theorem Inv.writeArg (a : ArgName) (v : BitVec 16) : Inv (writeArg a v s) := by
  have hst := inv.status.setArgWritten a
  obtain ⟨hp, hb, hw, -, ht, hd, hr⟩ := inv
  cases a with
  | arg0 | arg1 => exact ⟨hp, hb, hw, hst, ht, hd, hr⟩

theorem Inv.writeBuf {bytes : List Byte} (h : bytes.length ≤ s.params.bufCap) : Inv (writeBuf bytes s) :=
  ⟨inv.params, bufferCoherent_writeBuf h, inv.widths, inv.status, inv.tracker, inv.deltas, inv.record⟩

theorem Inv.resetBlock : Inv (resetBlock s) :=
  (inv_resetWith inv.params).withHost s.pending s.replies

end

/-! ### Every step keeps the invariant -/

/-- An operation that returns Ok: its writes and its end touch different fields, so the end can be taken first. -/
theorem Effect.inv_concluded {i : Instr} {s t : State} (h : Effect i s t) (inv : Inv s)
    (hf : s.status.faulted = false) : Inv (conclude .ok (setLast .ok t.status) t) := by
  have ended : Inv (conclude .ok (setLast .ok s.status) s) := inv.concluded .ok hf (by decide) (by decide)
  have last_ne : (conclude .ok (setLast .ok s.status) s).status.last ≠ .none := by simp
  cases h with
  | enc16be => exact ended.writeOut _ _ last_ne
  | dec16 | dec8 => exact ended.writeRes last_ne (sext_lt _ _)
  | dec16u | dec8u | bitx => exact ended.writeRes last_ne (zext_lt _ _)
  | decode hl hrec =>
    exact (ended.trackerUpdate _ _ last_ne).writeSens last_ne rfl (recordTyped_fieldsOf hrec)
  | trkupd => exact ended.trackerUpdate _ _ last_ne

theorem Ends.inv {i : Instr} {s t : State} (h : Ends i s t) (inv : Inv s) : Inv t := by
  cases h with
  | notAccepted => exact inv.reply _
  | fault hf c => exact inv.faulted c
  | malformed hf => exact inv.concluded _ hf (by decide) (by decide)
  | ok hf he => exact he.inv_concluded inv hf

theorem illegalWord_inv {s t : State} (h : illegalWord s = .next t) (inv : Inv s) : Inv t := by
  obtain ⟨-, rfl⟩ | ⟨-, rfl⟩ := illegalWord_next h
  · exact inv.reply _
  · exact inv.faulted _

/-- Every host action keeps the invariant. -/
theorem perform_inv {a : HostAction} {s t : State} (h : perform a s = .next t) (inv : Inv s) : Inv t := by
  obtain ⟨_, _, -, -, run⟩ | ⟨_, _, -, -, run⟩ | ⟨bytes, -, hl, rfl⟩ | ⟨arg, v, -, -, rfl⟩ | ⟨n, -, rfl⟩ |
    ⟨-, rfl⟩ := perform_next h
  · exact (exec_ends run).inv inv
  · exact illegalWord_inv run inv
  · exact inv.writeBuf hl
  · exact inv.writeArg arg _
  · exact inv.reply _
  · exact inv.resetBlock

theorem step_inv {s t : State} (h : step s = .next t) (inv : Inv s) : Inv t := by
  obtain ⟨-, rfl⟩ | ⟨e, rest, -, -, run⟩ := step_next h
  · exact inv
  · exact perform_inv run (inv.withHost rest s.replies)

/-! ### Actions that exist do not stop the model (R251) -/

/-- A word has an outcome from every state of the invariant, and the other actions that exist are performed. -/
theorem perform_exists {s : State} {e : HostEvent} (inv : Inv s) (he : eventLegal s.params e = true) :
    ∃ t, perform e.action s = .next t := by
  obtain ⟨agent, action⟩ := e
  obtain ⟨-, legal⟩ := Bool.and_eq_true_iff.mp he
  cases action with
  | issue w =>
    obtain ⟨t, -, run, -⟩ := outcomeOfEveryWord s w inv
    exact ⟨t, run⟩
  | load bytes => exact ⟨_, perform_load (of_decide_eq_true legal)⟩
  | wr a v => exact ⟨_, if_pos legal⟩
  | rd n => exact ⟨_, rfl⟩
  | reset => exact ⟨_, rfl⟩

theorem eventAllowed_of_eventLegal {p : Params} {e : HostEvent} (h : eventLegal p e = true) :
    eventAllowed e = true :=
  (Bool.and_eq_true_iff.mp h).1

/-- A step takes the next action if it exists, and leaves the later ones pending. -/
theorem step_of_eventLegal {s : State} {e : HostEvent} {rest : List HostEvent} (inv : Inv s)
    (hp : s.pending = e :: rest) (he : eventLegal s.params e = true) :
    ∃ t, step s = .next t ∧ t.pending = rest := by
  obtain ⟨t, run⟩ := perform_exists (s := { s with pending := rest }) (inv.withHost rest s.replies) he
  exact ⟨t, (step_allowed hp (eventAllowed_of_eventLegal he)).trans run, perform_pending run⟩

theorem run_succ {M : Host.Core} {s t : M.State} (n : Nat) (h : M.step s = .next t) :
    M.run (n + 1) s = M.run n t := by
  simp only [Host.Core.run, h]

/-- Actions that exist are all performed, one a step, and the invariant is kept. -/
theorem run_of_eventLegal {events : List HostEvent} {s : State} (inv : Inv s) (hp : s.pending = events)
    (he : ∀ e ∈ events, eventLegal s.params e = true) :
    ∃ t : State, core.run events.length s = .next t ∧ t.pending = [] ∧ Inv t := by
  induction events generalizing s with
  | nil => exact ⟨s, rfl, hp, inv⟩
  | cons e rest ih =>
    obtain ⟨u, hstep, hrest⟩ := step_of_eventLegal inv hp (he e (by simp))
    have hpar : u.params = s.params := parametersAreFixed s u hstep
    obtain ⟨t, hrun, ht⟩ := ih (step_inv hstep inv) hrest fun x hx => by
      rw [hpar]
      exact he x (by simp [hx])
    exact ⟨t, (run_succ (M := core) _ hstep).trans hrun, ht⟩

/-! ### PHASE stays Tracking (R33, R180) -/

theorem Effect.keeps_tracking {i : Instr} {s t : State} (h : Effect i s t)
    (hp : s.status.phase = .tracking) : t.status.phase = .tracking := by
  cases h with
  | enc16be | dec16 | dec16u | dec8 | dec8u | bitx => exact hp
  | decode | trkupd => rfl

theorem Ends.keeps_tracking {i : Instr} {s t : State} (h : Ends i s t)
    (hp : s.status.phase = .tracking) : t.status.phase = .tracking := by
  cases h with
  | notAccepted | fault | malformed => exact hp
  | ok hf he => exact he.keeps_tracking hp

/-- Of the host's actions only reset leaves Tracking. -/
theorem perform_keeps_tracking {a : HostAction} {s t : State} (h : perform a s = .next t)
    (hp : s.status.phase = .tracking) : t.status.phase = .tracking ∨ a = .reset := by
  obtain ⟨_, _, -, -, run⟩ | ⟨_, _, -, -, run⟩ | ⟨_, -, -, rfl⟩ | ⟨_, _, -, -, rfl⟩ | ⟨_, -, rfl⟩ |
    ⟨ha, -⟩ := perform_next h
  · exact .inl ((exec_ends run).keeps_tracking hp)
  · obtain ⟨-, rfl⟩ | ⟨-, rfl⟩ := illegalWord_next run
    · exact .inl hp
    · exact .inl hp
  · exact .inl hp
  · exact .inl (by simpa using hp)
  · exact .inl hp
  · exact .inr ha

end Sys2Proof.Machine

open Sys2Proof.Machine in
/-- Settles O56: nothing is valid at reset, and the default parameters meet their constraints. -/
theorem resetMeetsTheInvariant : Obligations.ResetMeetsTheInvariant :=
  ⟨inv_resetWith defaultParams_ok, fun _ hp => inv_resetWith hp⟩

open Sys2Proof.Machine in
/-- Settles O57: each write of the state keeps the invariant, and a step is a few of them. -/
theorem stepKeepsTheInvariant : Obligations.StepKeepsTheInvariant :=
  fun _ _ inv h => step_inv h inv

open Sys2Proof.Machine in
/-- Settles O59: with nothing pending a step is idle, and an action that exists is performed. -/
theorem noStopOnExistingActions : Obligations.NoStopOnExistingActions := by
  intro s inv he
  cases hp : s.pending with
  | nil => exact ⟨s, step_idle hp, hp⟩
  | cons e rest => exact step_of_eventLegal inv hp (he e (by simp [hp]))

open Sys2Proof.Machine in
/-- Settles O60: by induction on the pending actions, each of which a step takes. -/
theorem hostProgramEnds : Obligations.HostProgramEnds :=
  fun _ inv he => run_of_eventLegal inv rfl he

open Sys2Proof.Machine in
/-- Settles O39: while Uninitialized both previous counters are 0, and no operation writes PHASE back. -/
theorem firstUpdateComputesAgainstZero : Obligations.FirstUpdateComputesAgainstZero := by
  refine ⟨fun s inv hf hphase h0 h1 => ?_, fun s t h hphase => ?_⟩
  · obtain ⟨hL, hR⟩ := inv.tracker hphase
    obtain ⟨-, hpos, -⟩ := (paramsOk_iff s.params).mp inv.params
    obtain ⟨hdl, hdr⟩ := trackerUpdate_reads_back s.arg0 s.arg1 inv.params inv.widths
    rw [hL, Nat.cast_zero, delta_zero hpos] at hdl
    rw [hR, Nat.cast_zero, delta_zero hpos] at hdr
    exact ⟨_, _, _, exec_trkupd_written hf h0 h1, rfl, isCount_countOf _ _, isCount_countOf _ _, hdl, hdr⟩
  · obtain ⟨-, rfl⟩ | ⟨e, rest, hp, -, run⟩ := step_next h
    · exact .inl hphase
    · obtain ht | ha := perform_keeps_tracking (s := { s with pending := rest }) run hphase
      · exact .inl ht
      · exact .inr ⟨e, rest, hp, ha⟩

end
